-- ==== Sys2Proof/Word.lean ====
section
/-! DEFINITION. The word types of the block and its two small enumerations (R8, R9, R24). -/

namespace Sys2Proof

/-- A 32-bit pattern read as IEEE 754 binary32 (R8, R10). -/
abbrev B32 := BitVec 32

/-- A 16-bit word of the register channel (R8, R70). -/
abbrev ChannelWord := BitVec 16

/-- A packed 80-bit command (R80). -/
abbrev CommandWord := BitVec 80

/-- A channel index, one bit (R8, R23). -/
inductive Chan where
  | ch0
  | ch1
deriving DecidableEq, Repr

/-- The bit that stands for a channel (R80). -/
def Chan.toBit : Chan → Bool
  | .ch0 => false
  | .ch1 => true

/-- The channel a bit stands for (R80). -/
def Chan.ofBit : Bool → Chan
  | false => .ch0
  | true => .ch1

/-- The other channel: `1 - ch` of the rules. -/
def Chan.other : Chan → Chan
  | .ch0 => .ch1
  | .ch1 => .ch0

/-- A waveform shape, one of four values (R24). -/
inductive Shape where
  | sine
  | triangle
  | square
  | halfSquare
deriving DecidableEq, Repr

/-- The two-bit number of a shape, in the order of R24 and R80. -/
def Shape.toBits : Shape → BitVec 2
  | .sine => 0
  | .triangle => 1
  | .square => 2
  | .halfSquare => 3

/-- The shape a two-bit number stands for; all four are legal (R24, R83). -/
def Shape.ofBits (b : BitVec 2) : Shape :=
  if b = 0 then .sine else if b = 1 then .triangle else if b = 2 then .square else .halfSquare

/-- Two cells of one kind, one per channel: `FREQ`, `PHASE` and `WAVE` (R23, R24). -/
structure Pair (α : Type) where
  c0 : α
  c1 : α
deriving DecidableEq, Repr

/-- The cell a channel selects (R23). -/
def Pair.get {α : Type} (p : Pair α) : Chan → α
  | .ch0 => p.c0
  | .ch1 => p.c1

/-- Write the cell a channel selects and leave the other one alone (R23). -/
def Pair.set {α : Type} (p : Pair α) (ch : Chan) (v : α) : Pair α :=
  match ch with
  | .ch0 => ⟨v, p.c1⟩
  | .ch1 => ⟨p.c0, v⟩

end Sys2Proof
end

