-- ==== Sys2Proof/Syntax.lean ====
section
/-! DEFINITION. The instructions: the sixteen commands of R82 and the six emitted word formats of R71 to R75, one
constructor per row of spec/opcode_table.json. -/

namespace Sys2Proof

/-- The rows of the opcode table. A command arrives on the command port and is accepted whole. An emitted word is
executed by the sequencer of the running command: it is one `MemWrite(CH, 2, w)` on the register channel (R13, R53). -/
inductive Instr where
  /-- `BEGIN` (R131). -/
  | begin
  /-- `RESET` (R132). -/
  | reset
  /-- `SETFREQ ch, hz` (R140). -/
  | setfreq (ch : Chan) (a : B32)
  /-- `INCFREQ ch, dhz` (R141). -/
  | incfreq (ch : Chan) (a : B32)
  /-- `SETPHASE ch, deg` (R150). -/
  | setphase (ch : Chan) (a : B32)
  /-- `INCPHASE ch, ddeg` (R151). -/
  | incphase (ch : Chan) (a : B32)
  /-- `SETWAVE ch, shape` (R160). -/
  | setwave (ch : Chan) (shape : Shape)
  /-- `SETSRC fch, pch` (R161). -/
  | setsrc (fch pch : Chan)
  /-- `ENOUT en` (R162). -/
  | enout (en : Bool)
  /-- `SLEEP en` (R163). -/
  | sleep (en : Bool)
  /-- `DACOFF en` (R164). -/
  | dacoff (en : Bool)
  /-- `CLKOFF en` (R165). -/
  | clkoff (en : Bool)
  /-- `APPLY shape, fch, hz, pch, deg` (R180). -/
  | apply (shape : Shape) (fch : Chan) (a : B32) (pch : Chan) (b : B32)
  /-- `GETFREQ ch` (R190). -/
  | getfreq (ch : Chan)
  /-- `GETPHASE ch` (R191). -/
  | getphase (ch : Chan)
  /-- `GETRES` (R192). -/
  | getres
  /-- `W_FREQ` for `CHIP.FREQ0`: one 14-bit half (R71). -/
  | wFreqCh0 (half : BitVec 14)
  /-- `W_FREQ` for `CHIP.FREQ1` (R71). -/
  | wFreqCh1 (half : BitVec 14)
  /-- `W_PHASE` for `CHIP.PHASE0` (R72). -/
  | wPhaseCh0 (pw : BitVec 12)
  /-- `W_PHASE` for `CHIP.PHASE1` (R72). -/
  | wPhaseCh1 (pw : BitVec 12)
  /-- `W_CTRL`, the control image; `shape` is bits 5, 3, 1 in that order (R73). -/
  | wCtrl (fsel psel : Chan) (rst clkd dacd : Bool) (shape : BitVec 3)
  /-- `W_RESET`, the RESET control word (R75). -/
  | wReset
deriving DecidableEq, Repr

end Sys2Proof
end

