-- ==== Sys2Proof/WellFormed.lean ====
section
/-! DEFINITION. Which terms of `Instr` are instructions of the block (R74, R76, R83). -/

namespace Sys2Proof

/-- The values of bits 5, 3, 1 that a control word may carry: Sine, Triangle, Square, HalfSquare. R74 and R76: the four
other combinations are never emitted. -/
def shapePatterns : List (BitVec 3) := [0b000, 0b001, 0b110, 0b100]

/-- R83: every value of every command field is legal, so a command is always well formed. R76: a control word is one
only with a shape pattern of `shapePatterns`; the widths of the other word fields rule the rest out. -/
def Instr.wellFormed : Instr → Bool
  | .wCtrl _ _ _ _ _ shape => shapePatterns.contains shape
  | .begin | .reset | .setfreq _ _ | .incfreq _ _ | .setphase _ _ | .incphase _ _ | .setwave _ _ | .setsrc _ _
  | .enout _ | .sleep _ | .dacoff _ | .clkoff _ | .apply _ _ _ _ _ | .getfreq _ | .getphase _ | .getres
  | .wFreqCh0 _ | .wFreqCh1 _ | .wPhaseCh0 _ | .wPhaseCh1 _ | .wReset => true

end Sys2Proof
end

