-- ==== Sys2Proof/Decode.lean ====
section
/-! DEFINITION. Decoding of command words (R80 to R84) and of emitted channel words (R70 to R76), total and rejecting by
name, and the encoder written from the same tables. -/

namespace Sys2Proof

/-- One code word: an 80-bit command of the command port, or a 16-bit word of the register channel. -/
inductive Code where
  | command (w : CommandWord)
  | channel (w : ChannelWord)
deriving DecidableEq, Repr

/-- Why a code word is no instruction. -/
inductive Reject where
  /-- R83: `OP` is `0x10` to `0xFF`. -/
  | reservedOp
  /-- R83: `RSV` is not 0. -/
  | reservedField
  /-- R76, last row: a channel word the block never emits. -/
  | neverEmitted
  /-- The host's table asks for a width no format of R70 or R80 has. -/
  | unknownWidth
deriving DecidableEq, Repr

/-! ### The fields of a command word (R80) -/

/-- `OP`, bits 79:72. -/
def opField (w : CommandWord) : BitVec 8 := w.extractLsb' 72 8
/-- `RSV`, bits 71:69. -/
def rsvField (w : CommandWord) : BitVec 3 := w.extractLsb' 69 3
/-- `EN`, bit 68. -/
def enField (w : CommandWord) : Bool := w.getLsbD 68
/-- `SHAPE`, bits 67:66. -/
def shapeField (w : CommandWord) : Shape := Shape.ofBits (w.extractLsb' 66 2)
/-- `CH2`, bit 65. -/
def ch2Field (w : CommandWord) : Chan := Chan.ofBit (w.getLsbD 65)
/-- `CH`, bit 64. -/
def chField (w : CommandWord) : Chan := Chan.ofBit (w.getLsbD 64)
/-- `A`, bits 63:32. -/
def aField (w : CommandWord) : B32 := w.extractLsb' 32 32
/-- `B`, bits 31:0. -/
def bField (w : CommandWord) : B32 := w.extractLsb' 0 32

/-- The operation an `OP` value names, with the fields it uses; the other fields are ignored (R81, R82). -/
def decodeOp (op : Nat) (w : CommandWord) : Except Reject Instr :=
  match op with
  | 0x00 => .ok .begin
  | 0x01 => .ok .reset
  | 0x02 => .ok (.setfreq (chField w) (aField w))
  | 0x03 => .ok (.incfreq (chField w) (aField w))
  | 0x04 => .ok (.setphase (chField w) (aField w))
  | 0x05 => .ok (.incphase (chField w) (aField w))
  | 0x06 => .ok (.setwave (chField w) (shapeField w))
  | 0x07 => .ok (.setsrc (chField w) (ch2Field w))
  | 0x08 => .ok (.enout (enField w))
  | 0x09 => .ok (.sleep (enField w))
  | 0x0A => .ok (.dacoff (enField w))
  | 0x0B => .ok (.clkoff (enField w))
  | 0x0C => .ok (.apply (shapeField w) (chField w) (aField w) (ch2Field w) (bField w))
  | 0x0D => .ok (.getfreq (chField w))
  | 0x0E => .ok (.getphase (chField w))
  | 0x0F => .ok .getres
  | _ => .error .reservedOp

/-- R83, R84: every 80-bit word is one of the sixteen operations or an illegal command. -/
def decodeCommand (w : CommandWord) : Except Reject Instr :=
  if rsvField w = 0 then decodeOp (opField w).toNat w else .error .reservedField

/-! ### The emitted words (R71 to R76) -/

/-- Bits 5, 3, 1 of a control word, in that order (R73). -/
def shapePattern (w : ChannelWord) : BitVec 3 :=
  BitVec.ofBool (w.getLsbD 5) ++ BitVec.ofBool (w.getLsbD 3) ++ BitVec.ofBool (w.getLsbD 1)

/-- R76: the tests of the classification table, in its order. -/
def decodeChannel (w : ChannelWord) : Except Reject Instr :=
  if w &&& 0xC000 = 0x4000 then .ok (.wFreqCh0 (w.extractLsb' 0 14))
  else if w &&& 0xC000 = 0x8000 then .ok (.wFreqCh1 (w.extractLsb' 0 14))
  else if w &&& 0xF000 = 0xC000 then .ok (.wPhaseCh0 (w.extractLsb' 0 12))
  else if w &&& 0xF000 = 0xE000 then .ok (.wPhaseCh1 (w.extractLsb' 0 12))
  else if w = 0x0100 then .ok .wReset
  else if w &&& 0xF215 = 0x2000 ∧ shapePatterns.contains (shapePattern w) then
    .ok (.wCtrl (Chan.ofBit (w.getLsbD 11)) (Chan.ofBit (w.getLsbD 10)) (w.getLsbD 8) (w.getLsbD 7) (w.getLsbD 6)
      (shapePattern w))
  else .error .neverEmitted

/-- The decoder. It depends on no state (R84). -/
def decode : Code → Except Reject Instr
  | .command w => decodeCommand w
  | .channel w => decodeChannel w

/-! ### The encoder -/

/-- `CMD80` with `RSV = 0` (R80). -/
def packCommand (op : BitVec 8) (en : Bool) (shape : BitVec 2) (ch2 ch : Bool) (a b : B32) : CommandWord :=
  op ++ 0#3 ++ BitVec.ofBool en ++ shape ++ BitVec.ofBool ch2 ++ BitVec.ofBool ch ++ a ++ b

/-- `FTAG(ch)` (R71, R103). -/
def ftag : Chan → ChannelWord
  | .ch0 => 0x4000
  | .ch1 => 0x8000

/-- `W_FREQ`: `FTAG(ch) | HALF` (R71). -/
def freqWord (ch : Chan) (half : BitVec 14) : ChannelWord := ftag ch ||| half.setWidth 16

/-- A channel as a 16-bit number, for the shifts of R72 and R110. -/
def chanWord (ch : Chan) : ChannelWord := if ch.toBit then 1 else 0

/-- A flag as a 16-bit number, for the shifts of R110. -/
def flagWord (b : Bool) : ChannelWord := if b then 1 else 0

/-- `W_PHASE`: `0xC000 | (ch << 13) | PW` (R72). -/
def phaseWord (ch : Chan) (pw : BitVec 12) : ChannelWord := 0xC000 ||| (chanWord ch <<< 13) ||| pw.setWidth 16

/-- Bits 5, 3, 1 of a control word put back in their places (R73). -/
def shapeMask (p : BitVec 3) : ChannelWord :=
  (flagWord (p.getLsbD 2) <<< 5) ||| (flagWord (p.getLsbD 1) <<< 3) ||| (flagWord (p.getLsbD 0) <<< 1)

/-- `W_CTRL` from its fields (R73): bit 13 set, bits 15, 14, 12, 9, 4, 2, 0 clear. -/
def ctrlWord (fsel psel : Chan) (rst clkd dacd : Bool) (shape : BitVec 3) : ChannelWord :=
  0x2000 ||| shapeMask shape ||| (chanWord fsel <<< 11) ||| (chanWord psel <<< 10) ||| (flagWord rst <<< 8)
    ||| (flagWord clkd <<< 7) ||| (flagWord dacd <<< 6)

/-- The code word of an instruction; a field the operation does not use is written as zero (R81). -/
def encode : Instr → Code
  | .begin => .command (packCommand 0x00 false 0 false false 0 0)
  | .reset => .command (packCommand 0x01 false 0 false false 0 0)
  | .setfreq ch a => .command (packCommand 0x02 false 0 false ch.toBit a 0)
  | .incfreq ch a => .command (packCommand 0x03 false 0 false ch.toBit a 0)
  | .setphase ch a => .command (packCommand 0x04 false 0 false ch.toBit a 0)
  | .incphase ch a => .command (packCommand 0x05 false 0 false ch.toBit a 0)
  | .setwave ch sh => .command (packCommand 0x06 false sh.toBits false ch.toBit 0 0)
  | .setsrc fch pch => .command (packCommand 0x07 false 0 pch.toBit fch.toBit 0 0)
  | .enout en => .command (packCommand 0x08 en 0 false false 0 0)
  | .sleep en => .command (packCommand 0x09 en 0 false false 0 0)
  | .dacoff en => .command (packCommand 0x0A en 0 false false 0 0)
  | .clkoff en => .command (packCommand 0x0B en 0 false false 0 0)
  | .apply sh fch a pch b => .command (packCommand 0x0C false sh.toBits pch.toBit fch.toBit a b)
  | .getfreq ch => .command (packCommand 0x0D false 0 false ch.toBit 0 0)
  | .getphase ch => .command (packCommand 0x0E false 0 false ch.toBit 0 0)
  | .getres => .command (packCommand 0x0F false 0 false false 0 0)
  | .wFreqCh0 half => .channel (freqWord .ch0 half)
  | .wFreqCh1 half => .channel (freqWord .ch1 half)
  | .wPhaseCh0 pw => .channel (phaseWord .ch0 pw)
  | .wPhaseCh1 pw => .channel (phaseWord .ch1 pw)
  | .wCtrl fsel psel rst clkd dacd shape => .channel (ctrlWord fsel psel rst clkd dacd shape)
  | .wReset => .channel 0x0100

/-! ### Destination and wire form of a channel word -/

/-- The five registers behind the channel (R55). They are the chip's: the block holds no copy of them (R32, R36). -/
inductive ChipReg where
  | freq0
  | freq1
  | phase0
  | phase1
  | ctrl
deriving DecidableEq, Repr

/-- The register a channel word is for, from its top bits (R55). -/
def destination (w : ChannelWord) : ChipReg :=
  match w.getLsbD 15, w.getLsbD 14 with
  | false, true => .freq0
  | true, false => .freq1
  | true, true => if w.getLsbD 13 then .phase1 else .phase0
  | false, false => .ctrl

/-- The bytes of a word on the wire: high byte first (R61). -/
def wireBytes (w : ChannelWord) : List (BitVec 8) := [w.extractLsb' 8 8, w.extractLsb' 0 8]

/-- The word two received bytes make: the inverse of `wireBytes` (R61). -/
def wordOfWire (high low : BitVec 8) : ChannelWord := high ++ low

/-- The decoder on the table's numbering of bits: one word of 80 or of 16 bits, no other width (R70, R80). -/
def decodeTableWord (nbits w : Nat) : Option Instr :=
  let answer :=
    if nbits = 80 then decode (.command (BitVec.ofNat 80 w))
    else if nbits = 16 then decode (.channel (BitVec.ofNat 16 w))
    else .error .unknownWidth
  match answer with
  | .ok i => some i
  | .error _ => none

end Sys2Proof
end

