-- ==== Sys2Proof/Config.lean ====
section
/-! DEFINITION. The parameters of R7, their default values, and the one free value: the channel's answers (R52, U2). -/

namespace Sys2Proof

/-- `SHAPE_BITS` as a table of four masks (R7, R74). -/
structure ShapeBits where
  sine : BitVec 16
  triangle : BitVec 16
  square : BitVec 16
  halfSquare : BitVec 16
deriving DecidableEq, Repr

/-- `SHAPE_BITS(s)`: the mask of a shape (R74). -/
def ShapeBits.mask (t : ShapeBits) : Shape → BitVec 16
  | .sine => t.sine
  | .triangle => t.triangle
  | .square => t.square
  | .halfSquare => t.halfSquare

/-- The parameters of R7 that are no constants. They stand in the state and no step writes them, so a statement
about every state is a statement about every value of every parameter. -/
structure Config where
  /-- `MAX_FREQ_HZ`, a binary32 pattern. -/
  maxFreqHz : B32
  /-- `RESET_SETTLE_MS`, milliseconds. -/
  resetSettleMs : BitVec 32
  /-- `SHAPE_BITS`. -/
  shapeBits : ShapeBits
  /-- `RESET_WORD`. -/
  resetWord : ChannelWord
  /-- `DEFAULT_FREQ_HZ`, a binary32 pattern. -/
  defaultFreqHz : B32
  /-- `TRANSPORT_CAN_FAULT`. -/
  transportCanFault : Bool
deriving DecidableEq, Repr

/-- The values this hardware takes when nothing else is said (R7). The four masks are R74's, which the spec marks
as general knowledge (D14), and `resetWord` is decision D15. -/
def Config.default : Config where
  maxFreqHz := 0x4B3EBC20
  resetSettleMs := 15
  shapeBits := { sine := 0x0000, triangle := 0x0002, square := 0x0028, halfSquare := 0x0020 }
  resetWord := 0x0100
  defaultFreqHz := 0x447A0000
  transportCanFault := true

/-- `FREQ_WORD_BITS` (R7). -/
def Config.freqWordBits : Nat := 28

/-- `PHASE_WORD_BITS` (R7). -/
def Config.phaseWordBits : Nat := 12

/-- `HALF_BITS` (R7). -/
def Config.halfBits : Nat := 14

/-- FREE VALUE. Whether the channel answers `Fault` the `n`-th time it is asked with no answer given as an input (`State.drawn`
counts them). R52: no rule constrains it; U2: any value. It has no body, so a statement that
runs through it holds for every choice of answers. -/
opaque Config.channelFaults : Nat → Bool

end Sys2Proof
end

