-- ==== Sys2Proof/Machine/State.lean ====
section
/-! DEFINITION. The state of the block (R20), its ports (R34, R50), the running operation, and the state after hardware
reset (R35). -/

namespace Sys2Proof.Machine

/-- An event of the register channel (R13, R50): the select line driven active or inactive, a word written, a delay. -/
inductive Event where
  | sel (active : Bool)
  | word (w : ChannelWord)
  | delay (ms : BitVec 32)
deriving DecidableEq, Repr

/-- The channel's answer to one `MemWrite` (R52). -/
inductive Answer where
  | ok
  | fault
deriving DecidableEq, Repr

/-- What the host does at one step. The list of these is the host's, not the block's: the command port has no queue (R34).
A command that finds the block busy stays where it is until the block is idle. -/
inductive Input where
  /-- The host drives nothing for one step. -/
  | wait
  /-- A command word stands on the command port (R34). -/
  | command (w : CommandWord)
  /-- The reset signal with the `REFCLK` value beside it (R34, R130, R231). -/
  | hardReset (refclk : BitVec 32)
deriving DecidableEq, Repr

/-- The `STATUS` codes of R86. -/
inductive Status where
  | ok
  | badArgument
  | illegalCommand
  | transportFault
deriving DecidableEq, Repr

/-- How a command ends (R200, R208). `ok` carries the value of a readback, or 0. The index of the failed word is known
to the model and not reported (R200). -/
inductive Ending where
  | ok (value : B32)
  | badArgument
  | illegalCommand
  | transportFault (k : BitVec 2)
deriving DecidableEq, Repr

/-- One response on the response port (R34, R86). -/
structure Response where
  status : Status
  value : B32
deriving DecidableEq, Repr

/-- What the running operation has still to do, one step each. The spec writes an operation as a sequence of events (R53,
R66) and says where it stands by `SEQ` (R31); this list is the rest of that sequence, so that a hardware reset can fall
between any two events (R231). -/
inductive Action where
  /-- Write the next word of the current frame (R53). -/
  | word (w : ChannelWord)
  /-- `Sel(false)`: the frame ends (R53). -/
  | deselect
  /-- `Delay(ms)` (R131, R132). -/
  | delay (ms : BitVec 32)
  /-- The `SETPHASE` body inside `APPLY` (R180); `x` is `val(B)` in units of `2^-149`. -/
  | setPhase (ch : Chan) (x : Int)
  /-- The `SETWAVE` body inside `APPLY` (R180). -/
  | setWave (ch : Chan) (shape : Shape)
  /-- The `SETSRC` body inside `APPLY` (R180). -/
  | setSrc (fch pch : Chan)
  /-- The operation ends: `SEQ <- 0` and the response (R31, R208). -/
  | finish (e : Ending)
deriving DecidableEq, Repr

/-- The whole state: the tuple of R20, `REFCLK` (R33), the parameters (R7), the rest of the running operation, and what
has passed and is still to pass at the ports. -/
structure State where
  /-- `FREQ[0]`, `FREQ[1]` (R21). -/
  freq : Pair B32
  /-- `PHASE[0]`, `PHASE[1]` (R22). -/
  phase : Pair B32
  /-- `WAVE[0]`, `WAVE[1]` (R24). -/
  wave : Pair Shape
  /-- `AFC` (R25). -/
  afc : Chan
  /-- `APC` (R25). -/
  apc : Chan
  /-- `OE` (R26). -/
  oe : Bool
  /-- `DACDIS` (R27). -/
  dacdis : Bool
  /-- `CLKDIS` (R28). -/
  clkdis : Bool
  /-- `BEGUN` (R30). -/
  begun : Bool
  /-- `SEQ` (R31). -/
  seq : BitVec 2
  /-- `REFCLK` (R33). -/
  refclk : BitVec 32
  /-- The parameters of R7; no step writes them. -/
  cfg : Config
  /-- The rest of the running operation; empty when idle. -/
  todo : List Action
  /-- What the host will do, next first (R15, R34). -/
  inputs : List Input
  /-- Answers of the channel given as an input, next first (R52, U2); past their end the answer is a free value. -/
  answers : List Answer
  /-- The channel's, not the block's: how many answers have been taken from the free value `Config.channelFaults`. -/
  drawn : Nat
  /-- The channel trace, oldest first (R14). No rule reads it (R36). -/
  trace : List Event
  /-- The responses, oldest first (R14). -/
  responses : List Response
deriving DecidableEq, Repr

/-- Why the machine stops. -/
inductive Fault where
  /-- Raised by every command but `BEGIN` while `BEGUN = 0`, and by `BEGIN` while `BEGUN = 1`. R206 gives such a command
  no behaviour and U1 asks for a fault of the model. Safe: nothing is claimed of what the hardware does there. -/
  | lifecycleViolation
deriving DecidableEq, Repr

/-- Why the machine has no next state although nothing is wrong with the run so far. -/
inductive Refusal where
  /-- An instruction without a meaning in this model. Raised by no arm. Safe. -/
  | notModelled (mnemonic : String)
  /-- Raised by a hardware reset with `REFCLK = 0`, which is not a legal configuration (R7, R130, D11). Safe. -/
  | illegalRefclk
deriving DecidableEq, Repr

/-- The three outcomes of a step. -/
abbrev Result := Host.Outcome State Fault Refusal

/-- The machine right after hardware reset (R35) with the default parameters (R7), no input waiting and one event in the
trace. DESIGN CHOICE: `REFCLK` is an input of reset with no default (R33); 25 MHz is the value of every example of
the spec (assumption 1). -/
def State.reset : State where
  freq := ⟨0x447A0000, 0x447A0000⟩
  phase := ⟨0x00000000, 0x00000000⟩
  wave := ⟨.sine, .sine⟩
  afc := .ch0
  apc := .ch0
  oe := false
  dacdis := false
  clkdis := false
  begun := false
  seq := 0
  refclk := 25000000
  cfg := Config.default
  todo := []
  inputs := []
  answers := []
  drawn := 0
  trace := [.sel false]
  responses := []

end Sys2Proof.Machine
end

