-- ==== Sys2Proof/Machine/Flags.lean ====
section
/-! DEFINITION. The control-register encoder (R110 to R112): the control image as a function of the seven state fields and
the parameter `SHAPE_BITS`. -/

namespace Sys2Proof.Machine

/-- `SHAPEPAT(s) = 0x2000 | SHAPE_BITS(s)`: bit 13 is part of every pattern (R110, R111). -/
def shapePat (t : ShapeBits) (s : Shape) : ChannelWord := 0x2000 ||| t.mask s

/-- `CTRL()`, the closed form of R110. -/
def ctrl (s : State) : ChannelWord :=
  shapePat s.cfg.shapeBits (s.wave.get s.afc) ||| (chanWord s.afc <<< 11) ||| (chanWord s.apc <<< 10)
    ||| (flagWord (!s.oe) <<< 8) ||| (flagWord s.clkdis <<< 7) ||| (flagWord s.dacdis <<< 6)

end Sys2Proof.Machine
end

