-- ==== Sys2Proof/Machine/Binary32.lean ====
section
/-! DEFINITION. Binary32 patterns and exact reals (R10 to R12). Every finite binary32 value is an integer multiple of
`2^-149`, and so is every sum, remainder and scaled word that the block rounds: a real is an `Int` in units of `2^-149`,
and nothing is rounded but where the rules write `rnd32` or `round`. -/

namespace Sys2Proof.Machine

/-- How many units of `2^-149` make 1. -/
def unit : Nat := 2 ^ 149

/-- The exponent field `b[30:23]` (R10). -/
def expField (b : B32) : Nat := (b.extractLsb' 23 8).toNat

/-- The fraction field `b[22:0]` (R10). -/
def fracField (b : B32) : Nat := (b.extractLsb' 0 23).toNat

/-- The sign bit `b[31]` (R10). -/
def signBit (b : B32) : Bool := b.getLsbD 31

/-- R10: exponent 255 and a fraction that is not 0. -/
def isNaN (b : B32) : Bool := expField b == 255 && fracField b != 0

/-- R10: exponent 255 and fraction 0. -/
def isInf (b : B32) : Bool := expField b == 255 && fracField b == 0

/-- R10: neither infinite nor NaN. -/
def isFinite (b : B32) : Bool := expField b != 255

/-- The magnitude of a finite pattern in units of `2^-149` (R10): the fraction itself for a subnormal, the fraction with its
leading 1 shifted by the exponent for a normal. -/
def magnitude (b : B32) : Nat :=
  if expField b = 0 then fracField b else (2 ^ 23 + fracField b) * 2 ^ (expField b - 1)

/-- `val(b)` of a finite pattern, in units of `2^-149` (R10). -/
def val (b : B32) : Int := if signBit b then -(magnitude b : Int) else (magnitude b : Int)

/-- The magnitude pattern nearest to the non-negative real `n / d` units of `2^-149`: round to nearest, a tie to the even
fraction, and infinity from `2^128 - 2^103` on (R11). `k` is how many low bits the result cannot hold. -/
def roundMagnitude (n d : Nat) : Nat :=
  let k := Nat.log2 (n / d) - 23
  let ulp := d * 2 ^ k
  let q := n / ulp
  let r := n % ulp
  let up := if ulp < 2 * r ∨ (2 * r = ulp ∧ q % 2 = 1) then 1 else 0
  min (k * 2 ^ 23 + q + up) 0x7F800000

/-- `rnd32` of the real `n / d` units of `2^-149` (R11). -/
def rnd32Quot (n : Int) (d : Nat) : B32 :=
  BitVec.ofNat 32 ((if n < 0 then 2 ^ 31 else 0) + roundMagnitude n.natAbs d)

/-- `rnd32` of a real that is an integer number of units of `2^-149` (R11): every `rnd32` of the block's datapath. -/
def rnd32 (n : Int) : B32 := rnd32Quot n 1

/-- `round(a / b) = floor(a / b + 1/2)`, a tie going up (R12). -/
def roundHalfUp (a b : Nat) : Nat := (2 * a + b) / (2 * b)

/-- A real or an infinity: what a binary32 pattern that is not NaN denotes (R10). -/
inductive XReal where
  /-- `n` units of `2^-149`. -/
  | fin (n : Int)
  | posInf
  | negInf
deriving DecidableEq, Repr

/-- What a pattern that is not NaN denotes (R10). -/
def denote (b : B32) : XReal :=
  if isInf b then (if signBit b then .negInf else .posInf) else .fin (val b)

end Sys2Proof.Machine
end

