-- ==== Sys2Proof/Machine/Operands.lean ====
section
/-! DEFINITION. Numeric operands: which patterns an operation takes (R202), clamping (R100), normalization (R106) and the
increment sums (R114). -/

namespace Sys2Proof.Machine

/-- A frequency or frequency delta operand: none for NaN, which raises `BadArgument`; the infinities are taken (R202). -/
def freqOperand (a : B32) : Option XReal := if isNaN a then none else some (denote a)

/-- A phase or phase delta operand: none for NaN and for either infinity (R202). -/
def phaseOperand (a : B32) : Option Int := if isFinite a then some (val a) else none

/-- `val(MAX_FREQ_HZ)` in units of `2^-149` (R7). -/
def maxFreq (cfg : Config) : Nat := (val cfg.maxFreqHz).toNat

/-- `clampF(x)`, in units of `2^-149` (R100). -/
def clampF (cfg : Config) : XReal → Nat
  | .negInf => 0
  | .posInf => maxFreq cfg
  | .fin n => if n < 0 then 0 else if (maxFreq cfg : Int) < n then maxFreq cfg else n.toNat

/-- 360 degrees in units of `2^-149`. -/
def fullTurn : Nat := 360 * unit

/-- The exact remainder `q = x - 360 * floor(x / 360)` (R106). -/
def remainder360 (x : Int) : Int := x % (fullTurn : Int)

/-- `normP(x)`: the remainder rounded once, and 0 where the rounding carried it up to 360 (R106). -/
def normP (x : Int) : B32 :=
  let p := rnd32 (remainder360 x)
  if (fullTurn : Int) ≤ val p then 0x00000000 else p

/-- `addF(cur, d)` for a frequency delta: an infinity passes, a finite delta gives the sum rounded once, which may
overflow to an infinity (R114). -/
def addFreq (cur : B32) : XReal → XReal
  | .posInf => .posInf
  | .negInf => .negInf
  | .fin d => denote (rnd32 (val cur + d))

/-- `addF(cur, d)` for a finite phase delta: the sum rounded once, which is finite (R114, R151). -/
def addPhase (cur : B32) (d : Int) : Int := val (rnd32 (val cur + d))

end Sys2Proof.Machine
end

