-- ==== Sys2Proof/Machine/Quantizer.lean ====
section
/-! DEFINITION. The quantizer and the word formatter (R101 to R105, R107 to R109). Frequencies are in units of `2^-149` Hz. -/

namespace Sys2Proof.Machine

/-- `FW(h) = round(h * 2^28 / REFCLK)`, unbounded (R101). -/
def fw (refclk : BitVec 32) (h : Nat) : Nat :=
  roundHalfUp (h * 2 ^ Config.freqWordBits) (refclk.toNat * unit)

/-- `FW28(h) = FW(h) mod 2^28` (R102). -/
def fw28 (refclk : BitVec 32) (h : Nat) : BitVec 28 := BitVec.ofNat 28 (fw refclk h)

/-- `FLO(ch, h)`: the tagged low half (R77, R103). -/
def freqLow (refclk : BitVec 32) (ch : Chan) (h : Nat) : ChannelWord :=
  freqWord ch ((fw28 refclk h).extractLsb' 0 14)

/-- `FHI(ch, h)`: the tagged high half (R77, R103). -/
def freqHigh (refclk : BitVec 32) (ch : Chan) (h : Nat) : ChannelWord :=
  freqWord ch ((fw28 refclk h).extractLsb' 14 14)

/-- `actualF(h) = rnd32(FW28(h) * REFCLK / 2^28)` (R104): in units of `2^-149` the argument is `FW28 * REFCLK * 2^121`. -/
def actualF (refclk : BitVec 32) (h : Nat) : B32 :=
  rnd32 (((fw28 refclk h).toNat * refclk.toNat * 2 ^ 121 : Nat) : Int)

/-- `resolution() = rnd32(REFCLK / 2^28)` (R105). -/
def resolution (refclk : BitVec 32) : B32 := rnd32 ((refclk.toNat * 2 ^ 121 : Nat) : Int)

/-- `PW(p) = round(val(p) * 4096 / 360) mod 4096` (R107). -/
def pw (p : B32) : BitVec 12 :=
  BitVec.ofNat 12 (roundHalfUp (magnitude p * 2 ^ Config.phaseWordBits) fullTurn)

/-- `PWORD(ch, p)` (R78, R108). -/
def pword (ch : Chan) (p : B32) : ChannelWord := phaseWord ch (pw p)

/-- `actualP(p) = rnd32(PW(p) * 360 / 4096)` (R109): `PW * 45 / 2^9`, in units of `2^-149` `PW * 45 * 2^140`. -/
def actualP (p : B32) : B32 := rnd32 (((pw p).toNat * 45 * 2 ^ 140 : Nat) : Int)

end Sys2Proof.Machine
end

