-- ==== Sys2Proof/Machine/Ops.lean ====
section
/-! DEFINITION. The named operations the meanings share: channel events, frames, the word write, the end of a command
(which is fault entry too), hardware reset, and the bodies of the setters. -/

namespace Sys2Proof.Machine

/-! ### Channel events and the answer to a word -/

/-- One event is appended to the channel trace (R13, R66). -/
def emit (e : Event) (s : State) : State := { s with trace := s.trace ++ [e] }

/-- The channel's answer to the next `MemWrite` (R52): always `Ok` where the parameter says the transport cannot fault, else
the next answer given as an input, else a free value. -/
def nextAnswer (s : State) : Answer :=
  if s.cfg.transportCanFault then
    match s.answers with
    | a :: _ => a
    | [] => if Config.channelFaults s.drawn then .fault else .ok
  else .ok

/-- The channel has answered one word: the answer given as an input, or one more of the free ones, is used up. -/
def takeAnswer (s : State) : State :=
  { s with answers := s.answers.tail, drawn := if s.answers.isEmpty then s.drawn + 1 else s.drawn }

/-! ### The end of a command: normal end and fault entry (R208) -/

/-- The response an ending sends (R86, R200): a value only with `Ok`. -/
def Ending.response : Ending → Response
  | .ok v => ⟨.ok, v⟩
  | .badArgument => ⟨.badArgument, 0⟩
  | .illegalCommand => ⟨.illegalCommand, 0⟩
  | .transportFault _ => ⟨.transportFault, 0⟩

/-- The `STATUS` code (R86). -/
def Status.code : Status → BitVec 2
  | .ok => 0
  | .badArgument => 1
  | .illegalCommand => 2
  | .transportFault => 3

/-- `RSP34`: `STATUS` in bits 33:32 and `VALUE` in bits 31:0 (R86). -/
def Response.word (r : Response) : BitVec 34 := r.status.code ++ r.value

/-- The command ends: `SEQ <- 0` and the response is sent. This is the block's whole fault entry; it saves nothing, goes
nowhere and needs no return (R208, R209). -/
def finish (e : Ending) (s : State) : State :=
  { s with seq := 0, responses := s.responses ++ [e.response] }

/-! ### Frames -/

/-- A frame opens: `Sel(true)` is performed, `SEQ` is 1 because the first word is being written, and the words, the
`Sel(false)` and then what was still to do are left to do (R31, R53). -/
def openFrame (ws : List ChannelWord) (s : State) : State :=
  { emit (.sel true) s with seq := 1, todo := ws.map .word ++ (.deselect :: s.todo) }

/-- Is the next action one more word of the current frame? -/
def wordNext : List Action → Bool
  | .word _ :: _ => true
  | _ => false

/-- `MemWrite(CH, 2, w)` inside a frame (R13, R53): the `Word` event, the channel's answer, and then either the next word of
the frame (`SEQ` goes up by one, R31) or, on `Fault`, `Sel(false)` and the transport fault and nothing else of the
operation (R204). -/
def memWrite (w : ChannelWord) (s : State) : State :=
  let sent := takeAnswer (emit (.word w) s)
  match nextAnswer s with
  | .ok => { sent with seq := if wordNext s.todo then s.seq + 1 else s.seq }
  | .fault => { sent with todo := [.deselect, .finish (.transportFault s.seq)] }

/-! ### Command shapes -/

/-- The common precondition of every command but `BEGIN` (R206): the body where it holds, the model's fault where it
fails (U1). -/
def whenBegun (s : State) (body : State) : Result :=
  if s.begun then .next body else .fault .lifecycleViolation

/-- What is left to do after a command's body: the normal end with no value (`done`, R13). -/
def thenDone (s : State) : State := { s with todo := .finish (.ok 0) :: s.todo }

/-! ### Bodies of the setters, shared by the commands and by `APPLY` (R180) -/

/-- `SETFREQ` from the line `h <- clampF(x)` on (R140): the register first, then one frame with the control image of the
state as it now is, the low half and the high half. -/
def setFreqBody (ch : Chan) (x : XReal) (s : State) : State :=
  let h := clampF s.cfg x
  let s' := { s with freq := s.freq.set ch (rnd32 (h : Int)) }
  openFrame [ctrl s', freqLow s.refclk ch h, freqHigh s.refclk ch h] s'

/-- `SETPHASE` from the line `p <- normP(x)` on (R150): the register first, then one frame with one phase word. -/
def setPhaseBody (ch : Chan) (x : Int) (s : State) : State :=
  let p := normP x
  openFrame [pword ch p] { s with phase := s.phase.set ch p }

/-- `writeCtrl()`: one frame with the control image of the state as it now is (R166). -/
def writeCtrl (s : State) : State := openFrame [ctrl s] s

/-- `SETWAVE` (R160). -/
def setWaveBody (ch : Chan) (shape : Shape) (s : State) : State :=
  writeCtrl { s with wave := s.wave.set ch shape }

/-- `SETSRC` (R161). -/
def setSrcBody (fch pch : Chan) (s : State) : State := writeCtrl { s with afc := fch, apc := pch }

/-- The frame with the RESET word and the settling delay after it, of `BEGIN` and `RESET` (R131, R132). -/
def resetBody (s : State) : State :=
  openFrame [s.cfg.resetWord] { s with todo := .delay s.cfg.resetSettleMs :: s.todo }

/-! ### Hardware reset -/

/-- `construct(refclk)` (R130, R230, R231): every register at its reset value whatever ran before, the rest of a running
operation dropped without a response, and one `Sel(false)` event. A `REFCLK` of 0 is refused (R7). -/
def construct (refclk : BitVec 32) (s : State) : Result :=
  if refclk = 0 then .refused .illegalRefclk
  else
    .next (emit (.sel false)
      { s with
        freq := ⟨s.cfg.defaultFreqHz, s.cfg.defaultFreqHz⟩
        phase := ⟨0x00000000, 0x00000000⟩
        wave := ⟨.sine, .sine⟩
        afc := .ch0
        apc := .ch0
        oe := false
        dacdis := false
        clkdis := false
        begun := false
        seq := 0
        refclk := refclk
        todo := [] })

/-! ### The select line as the transport drives it -/

/-- The electrical level of the select line for `Sel(active)`: active-low, so `true` (high) exactly when inactive (R51). -/
def selectLevelHigh (active : Bool) : Bool := !active

/-- The bytes a trace puts on the serial line, in order (R61, R66). -/
def serialBytes : List Event → List (BitVec 8)
  | [] => []
  | .word w :: t => wireBytes w ++ serialBytes t
  | .sel _ :: t => serialBytes t
  | .delay _ :: t => serialBytes t

end Sys2Proof.Machine
end

