-- ==== Sys2Proof/Machine/ChannelWords.lean ====
section
/-! DEFINITION. The emitted words as instructions of the sequencer: each is one `MemWrite(CH, 2, w)` of its word (R13, R53,
R71 to R75). What the chip does with the word is outside the spec (R6). -/

namespace Sys2Proof.Machine

/-- `W_FREQ` for `CHIP.FREQ0` (R71). -/
def execWFreqCh0 (half : BitVec 14) (s : State) : Result := .next (memWrite (freqWord .ch0 half) s)

/-- `W_FREQ` for `CHIP.FREQ1` (R71). -/
def execWFreqCh1 (half : BitVec 14) (s : State) : Result := .next (memWrite (freqWord .ch1 half) s)

/-- `W_PHASE` for `CHIP.PHASE0` (R72). -/
def execWPhaseCh0 (pw : BitVec 12) (s : State) : Result := .next (memWrite (phaseWord .ch0 pw) s)

/-- `W_PHASE` for `CHIP.PHASE1` (R72). -/
def execWPhaseCh1 (pw : BitVec 12) (s : State) : Result := .next (memWrite (phaseWord .ch1 pw) s)

/-- `W_CTRL` (R73). -/
def execWCtrl (fsel psel : Chan) (rst clkd dacd : Bool) (shape : BitVec 3) (s : State) : Result :=
  .next (memWrite (ctrlWord fsel psel rst clkd dacd shape) s)

/-- `W_RESET` (R75): the table's constant word. -/
def execWReset (s : State) : Result := .next (memWrite 0x0100 s)

end Sys2Proof.Machine
end

