-- ==== Sys2Proof/Machine/Composite.lean ====
section
/-! DEFINITION. The composite command (R180). -/

namespace Sys2Proof.Machine

/-- `APPLY shape, fch, hz, pch, deg` (R180): both numeric operands are checked before any effect, then the bodies of `SETFREQ`,
`SETPHASE`, `SETWAVE` and `SETSRC` run one after the other, each with its own frame, and one response ends it. -/
def execApply (shape : Shape) (fch : Chan) (a : B32) (pch : Chan) (b : B32) (s : State) : Result :=
  whenBegun s <|
    match freqOperand a, phaseOperand b with
    | some x, some y =>
      let s' := thenDone s
      setFreqBody fch x
        { s' with todo := .setPhase pch y :: .setWave fch shape :: .setSrc fch pch :: s'.todo }
    | _, _ => finish .badArgument s

end Sys2Proof.Machine
end

