-- ==== Sys2Proof/Machine/Control.lean ====
section
/-! DEFINITION. The control commands (R160 to R165). -/

namespace Sys2Proof.Machine

/-- `SETWAVE ch, shape` (R160). -/
def execSetwave (ch : Chan) (shape : Shape) (s : State) : Result :=
  whenBegun s (setWaveBody ch shape (thenDone s))

/-- `SETSRC fch, pch` (R161). -/
def execSetsrc (fch pch : Chan) (s : State) : Result := whenBegun s (setSrcBody fch pch (thenDone s))

/-- `ENOUT en` (R162). -/
def execEnout (en : Bool) (s : State) : Result := whenBegun s (writeCtrl (thenDone { s with oe := en }))

/-- `SLEEP en` (R163): both power flags, one control word. -/
def execSleep (en : Bool) (s : State) : Result :=
  whenBegun s (writeCtrl (thenDone { s with dacdis := en, clkdis := en }))

/-- `DACOFF en` (R164). -/
def execDacoff (en : Bool) (s : State) : Result := whenBegun s (writeCtrl (thenDone { s with dacdis := en }))

/-- `CLKOFF en` (R165). -/
def execClkoff (en : Bool) (s : State) : Result := whenBegun s (writeCtrl (thenDone { s with clkdis := en }))

end Sys2Proof.Machine
end

