-- ==== Sys2Proof/Machine/Frequency.lean ====
section
/-! DEFINITION. The frequency commands (R140, R141). -/

namespace Sys2Proof.Machine

/-- `SETFREQ ch, hz` (R140): NaN is a `BadArgument` with no effect (R202). -/
def execSetfreq (ch : Chan) (a : B32) (s : State) : Result :=
  whenBegun s <|
    match freqOperand a with
    | none => finish .badArgument s
    | some x => setFreqBody ch x (thenDone s)

/-- `INCFREQ ch, dhz` (R141): the setter's path on the sum. -/
def execIncfreq (ch : Chan) (a : B32) (s : State) : Result :=
  whenBegun s <|
    match freqOperand a with
    | none => finish .badArgument s
    | some d => setFreqBody ch (addFreq (s.freq.get ch) d) (thenDone s)

end Sys2Proof.Machine
end

