-- ==== Sys2Proof/Machine/Lifecycle.lean ====
section
/-! DEFINITION. The lifecycle commands (R131, R132). -/

namespace Sys2Proof.Machine

/-- `BEGIN` (R131): `BEGUN` is set before the first event; a second `BEGIN` violates the lifecycle (R206). -/
def execBegin (s : State) : Result :=
  if s.begun then .fault .lifecycleViolation
  else .next (resetBody (thenDone { s with begun := true }))

/-- `RESET` (R132): no shadow register changes. -/
def execReset (s : State) : Result := whenBegun s (resetBody (thenDone s))

end Sys2Proof.Machine
end

