-- ==== Sys2Proof/Machine/Phase.lean ====
section
/-! DEFINITION. The phase commands (R150, R151). -/

namespace Sys2Proof.Machine

/-- `SETPHASE ch, deg` (R150): NaN and the infinities are a `BadArgument` with no effect (R202). -/
def execSetphase (ch : Chan) (a : B32) (s : State) : Result :=
  whenBegun s <|
    match phaseOperand a with
    | none => finish .badArgument s
    | some x => setPhaseBody ch x (thenDone s)

/-- `INCPHASE ch, ddeg` (R151): the setter's path on the sum. -/
def execIncphase (ch : Chan) (a : B32) (s : State) : Result :=
  whenBegun s <|
    match phaseOperand a with
    | none => finish .badArgument s
    | some d => setPhaseBody ch (addPhase (s.phase.get ch) d) (thenDone s)

end Sys2Proof.Machine
end

