-- ==== Sys2Proof/Machine/Readback.lean ====
section
/-! DEFINITION. The readback commands (R190 to R192): no event, no register written, a value in the response. -/

namespace Sys2Proof.Machine

/-- `GETFREQ ch` (R190): `actualF(val(FREQ[ch]))`. -/
def execGetfreq (ch : Chan) (s : State) : Result :=
  whenBegun s (finish (.ok (actualF s.refclk (magnitude (s.freq.get ch)))) s)

/-- `GETPHASE ch` (R191): `actualP(PHASE[ch])`. -/
def execGetphase (ch : Chan) (s : State) : Result := whenBegun s (finish (.ok (actualP (s.phase.get ch))) s)

/-- `GETRES` (R192): `resolution()`. -/
def execGetres (s : State) : Result := whenBegun s (finish (.ok (resolution s.refclk)) s)

end Sys2Proof.Machine
end

