-- ==== Sys2Proof/Machine/Dispatch.lean ====
section
/-! DEFINITION. One arm per constructor of `Instr`. -/

namespace Sys2Proof.Machine

def exec (i : Instr) (s : State) : Host.Outcome State Fault Refusal :=
  match i with
  | .begin => Sys2Proof.Machine.execBegin s
  | .reset => Sys2Proof.Machine.execReset s
  | .setfreq ch a => Sys2Proof.Machine.execSetfreq ch a s
  | .incfreq ch a => Sys2Proof.Machine.execIncfreq ch a s
  | .setphase ch a => Sys2Proof.Machine.execSetphase ch a s
  | .incphase ch a => Sys2Proof.Machine.execIncphase ch a s
  | .setwave ch shape => Sys2Proof.Machine.execSetwave ch shape s
  | .setsrc fch pch => Sys2Proof.Machine.execSetsrc fch pch s
  | .enout en => Sys2Proof.Machine.execEnout en s
  | .sleep en => Sys2Proof.Machine.execSleep en s
  | .dacoff en => Sys2Proof.Machine.execDacoff en s
  | .clkoff en => Sys2Proof.Machine.execClkoff en s
  | .apply shape fch a pch b => Sys2Proof.Machine.execApply shape fch a pch b s
  | .getfreq ch => Sys2Proof.Machine.execGetfreq ch s
  | .getphase ch => Sys2Proof.Machine.execGetphase ch s
  | .getres => Sys2Proof.Machine.execGetres s
  | .wFreqCh0 half => Sys2Proof.Machine.execWFreqCh0 half s
  | .wFreqCh1 half => Sys2Proof.Machine.execWFreqCh1 half s
  | .wPhaseCh0 pw => Sys2Proof.Machine.execWPhaseCh0 pw s
  | .wPhaseCh1 pw => Sys2Proof.Machine.execWPhaseCh1 pw s
  | .wCtrl fsel psel rst clkd dacd shape => Sys2Proof.Machine.execWCtrl fsel psel rst clkd dacd shape s
  | .wReset => Sys2Proof.Machine.execWReset s

end Sys2Proof.Machine
end

