-- ==== Sys2Proof/Machine/Sequence.lean ====
section
/-! DEFINITION. What one step does: hardware reset, accepting a command, or one action of the running operation (R15, R34, R53,
R66, R231). -/

namespace Sys2Proof.Machine

/-- A command word is accepted (R34). An illegal one ends at once with `IllegalCommand`, before the lifecycle precondition and
every other check, with no effect (R83, R201, R205); a legal one is executed. -/
def accept (w : CommandWord) (s : State) : Result :=
  match decode (.command w) with
  | .ok i => exec i s
  | .error _ => .next (finish .illegalCommand s)

/-- The next word of the frame is written (R53): the emitted word, read as the instruction it is (R76), is executed. A word
of no emitted format, which only illegal parameters can put here, is written all the same. -/
def sendWord (w : ChannelWord) (s : State) : Result :=
  match decode (.channel w) with
  | .ok i => exec i s
  | .error _ => .next (memWrite w s)

/-- One action of the running operation; `s` no longer holds it. -/
def perform (a : Action) (s : State) : Result :=
  match a with
  | .word w => sendWord w s
  | .deselect => .next (emit (.sel false) s)
  | .delay ms => .next (emit (.delay ms) s)
  | .setPhase ch x => .next (setPhaseBody ch x s)
  | .setWave ch shape => .next (setWaveBody ch shape s)
  | .setSrc fch pch => .next (setSrcBody fch pch s)
  | .finish e => .next (finish e s)

/-- The running operation goes on by one action; an idle block waits (R66, R230). -/
def advance (s : State) : Result :=
  match s.todo with
  | [] => .next s
  | a :: rest => perform a { s with todo := rest }

/-- One step of the block under what the host does at it. Reset comes first (R231); a command is accepted only when
`SEQ = 0` and waits otherwise (R34). -/
def react (s : State) : Result :=
  match s.inputs with
  | .hardReset refclk :: rest => construct refclk { s with inputs := rest }
  | .wait :: rest => advance { s with inputs := rest }
  | .command w :: rest => if s.seq = 0 then accept w { s with inputs := rest } else advance s
  | [] => advance s

/-- The command `w` stands alone at the port of an idle block. -/
def presentCommand (w : CommandWord) (s : State) : State :=
  { s with seq := 0, todo := [], inputs := .command w :: s.inputs }

/-- The word `w` is the next one of a running frame, and the host drives nothing at this step. -/
def presentWord (w : ChannelWord) (s : State) : State :=
  { s with seq := (if s.seq = 0 then 1 else s.seq), todo := .word w :: s.todo, inputs := .wait :: s.inputs }

end Sys2Proof.Machine
end

