-- ==== Sys2Proof/Machine/Step.lean ====
section
/-! DEFINITION. One step of the machine, and the state in which the very next step runs a given word. -/

namespace Sys2Proof.Machine

/-- One step: the block reacts to what stands at its ports. -/
def step (s : State) : Host.Outcome State Fault Refusal := react s

/-- `s` with the instruction of `nbits` bits placed where the next step takes it: a command word on the command port of the
idle block, an emitted word as the next word of a frame. -/
def State.withFetchWord (s : State) (nbits w : Nat) : State :=
  if nbits = 16 then presentWord (BitVec.ofNat 16 w) s else presentCommand (BitVec.ofNat 80 w) s

end Sys2Proof.Machine
end

