-- ==== Sys2Proof/Machine/Assembler.lean ====
section
/-! DEFINITION. The assembler of R88 and R89 on lines already split into operands: names, literals and the pseudo-forms. -/

namespace Sys2Proof.Machine

/-- A channel operand: `0`, `1`, `REG0` or `REG1` (R88). -/
inductive ChanName where
  | zero
  | one
  | reg0
  | reg1
deriving DecidableEq, Repr

/-- The channel a name stands for (R88). -/
def ChanName.chan : ChanName → Chan
  | .zero => .ch0
  | .reg0 => .ch0
  | .one => .ch1
  | .reg1 => .ch1

/-- A numeric operand: a raw pattern `0x........`, or the decimal literal `num * 10^-digits` (R88). -/
inductive Literal where
  | raw (b : B32)
  | decimal (num : Int) (digits : Nat)
deriving DecidableEq, Repr

/-- The pattern of a literal; a decimal one is converted by `rnd32` (R88). -/
def Literal.bits : Literal → B32
  | .raw b => b
  | .decimal num digits => rnd32Quot (num * (unit : Int)) (10 ^ digits)

/-- One line of a program: a mnemonic with its operands. `SETSRC` may leave out its second operand, `APPLY` its last one or
its last two (R89). -/
inductive AsmLine where
  | begin
  | reset
  | setfreq (ch : ChanName) (hz : Literal)
  | incfreq (ch : ChanName) (dhz : Literal)
  | setphase (ch : ChanName) (deg : Literal)
  | incphase (ch : ChanName) (ddeg : Literal)
  | setwave (ch : ChanName) (shape : Shape)
  | setsrc (fch : ChanName) (pch : Option ChanName)
  | enout (en : Bool)
  | sleep (en : Bool)
  | dacoff (en : Bool)
  | clkoff (en : Bool)
  | apply (shape : Shape) (fch : ChanName) (hz : Literal) (rest : Option (ChanName × Option Literal))
  | getfreq (ch : ChanName)
  | getphase (ch : ChanName)
  | getres
deriving DecidableEq, Repr

/-- The instruction a line stands for, with the missing operands filled in (R88, R89). -/
def AsmLine.instr : AsmLine → Instr
  | .begin => .begin
  | .reset => .reset
  | .setfreq ch hz => .setfreq ch.chan hz.bits
  | .incfreq ch dhz => .incfreq ch.chan dhz.bits
  | .setphase ch deg => .setphase ch.chan deg.bits
  | .incphase ch ddeg => .incphase ch.chan ddeg.bits
  | .setwave ch shape => .setwave ch.chan shape
  | .setsrc fch none => .setsrc fch.chan fch.chan
  | .setsrc fch (some pch) => .setsrc fch.chan pch.chan
  | .enout en => .enout en
  | .sleep en => .sleep en
  | .dacoff en => .dacoff en
  | .clkoff en => .clkoff en
  | .apply shape fch hz none => .apply shape fch.chan hz.bits fch.chan 0x00000000
  | .apply shape fch hz (some (pch, none)) => .apply shape fch.chan hz.bits pch.chan 0x00000000
  | .apply shape fch hz (some (pch, some deg)) => .apply shape fch.chan hz.bits pch.chan deg.bits
  | .getfreq ch => .getfreq ch.chan
  | .getphase ch => .getphase ch.chan
  | .getres => .getres

/-- The command word a line assembles to (R81, R88). -/
def AsmLine.code (l : AsmLine) : Code := encode l.instr

end Sys2Proof.Machine
end

