-- ==== Sys2Proof/Safety.lean ====
section
/-! DEFINITION. The words claims are stated in: legal parameters, the invariants of the registers, of the sequencer and of the
select line, what a trace holds, and runs of the machine. -/

namespace Sys2Proof.Machine

/-! ### Parameters and registers -/

/-- The conditions of R7 and D14 on the parameters: a finite ceiling of at least 0, a shape table that is injective and confined
to bits 5, 3, 1, and a RESET word with tag `00` and bit 8 set. DEDUCED (assumption 3): the default frequency is a clamped
value with sign bit 0, since R21's invariant holds after reset. -/
def ConfigLegal (cfg : Config) : Prop :=
  isFinite cfg.maxFreqHz = true ∧ 0 ≤ val cfg.maxFreqHz ∧
  (∀ s t : Shape, cfg.shapeBits.mask s = cfg.shapeBits.mask t → s = t) ∧
  (∀ s : Shape, cfg.shapeBits.mask s &&& 0x002A = cfg.shapeBits.mask s) ∧
  cfg.resetWord &&& 0xC100 = 0x0100 ∧
  isFinite cfg.defaultFreqHz = true ∧ signBit cfg.defaultFreqHz = false ∧
  val cfg.defaultFreqHz ≤ val cfg.maxFreqHz

/-- What R21 says of a requested frequency: finite, sign bit 0, at most the ceiling. -/
abbrev FreqOk (cfg : Config) (b : B32) : Prop :=
  isFinite b = true ∧ signBit b = false ∧ 0 ≤ val b ∧ val b ≤ val cfg.maxFreqHz

/-- What R22 says of a requested phase: finite, sign bit 0, below 360 degrees. -/
abbrev PhaseOk (b : B32) : Prop :=
  isFinite b = true ∧ signBit b = false ∧ 0 ≤ val b ∧ val b < (fullTurn : Int)

/-- The register invariant: legal parameters, a legal `REFCLK` (R7), and R21 and R22 of all four registers. -/
structure RegistersOk (s : State) : Prop where
  cfg : ConfigLegal s.cfg
  refclk : s.refclk ≠ 0
  freq : ∀ ch, FreqOk s.cfg (s.freq.get ch)
  phase : ∀ ch, PhaseOk (s.phase.get ch)

/-! ### The sequencer -/

/-- What may be left to do outside a frame: a settling delay, sub-operations of `APPLY`, and one end of the command. -/
def betweenFrames : List Action → Bool
  | [.finish _] => true
  | .delay _ :: t => betweenFrames t
  | .setPhase _ _ :: t => betweenFrames t
  | .setWave _ _ :: t => betweenFrames t
  | .setSrc _ _ :: t => betweenFrames t
  | _ => false

/-- What may be left to do inside a frame: at most `room` words, then the `Sel(false)` that closes it. -/
def insideFrame (room : Nat) : List Action → Bool
  | .word _ :: t => room != 0 && insideFrame (room - 1) t
  | .deselect :: t => betweenFrames t
  | _ => false

/-- Is the next action one of a frame that is open? -/
def frameOpen : List Action → Bool
  | .word _ :: _ => true
  | .deselect :: _ => true
  | _ => false

/-- The sequencer invariant (R31, R34): `SEQ = 0` exactly when nothing is left to do; otherwise what is left is the rest of one
operation, and word number `SEQ` is the next one of a frame of at most three. -/
abbrev SequencerOk (s : State) : Prop :=
  (s.seq = 0 ∧ s.todo = []) ∨
  (s.seq ≠ 0 ∧ (insideFrame (4 - s.seq.toNat) s.todo = true ∨ betweenFrames s.todo = true))

/-! ### The channel trace -/

/-- What one event does to the select line as the trace shows it: none where the event does not fit (a word or a second select
on a line in the wrong state). -/
def lineAfter (line : Option Bool) (e : Event) : Option Bool :=
  match line, e with
  | some false, .sel b => some b
  | some true, .sel false => some false
  | some true, .word _ => some true
  | some false, .delay _ => some false
  | _, _ => none

/-- The select line after a whole trace that starts with the line inactive. -/
def lineState (t : List Event) : Option Bool := t.foldl lineAfter (some false)

/-- The framing invariant (R53, R243): every word stands between a `Sel(true)` and its `Sel(false)`, no select stands inside
another, no delay inside a frame, and the line is active exactly while a frame is open. -/
abbrev FramingOk (s : State) : Prop := lineState s.trace = some (frameOpen s.todo)

/-- The words of a trace, in order (R66). -/
def wordsOf : List Event → List ChannelWord
  | [] => []
  | .word w :: t => w :: wordsOf t
  | .sel _ :: t => wordsOf t
  | .delay _ :: t => wordsOf t

/-- The events of one frame that goes through (R53). -/
def frameEvents (ws : List ChannelWord) : List Event := .sel true :: (ws.map .word ++ [.sel false])

/-- The words left to write in the open frame or held by a list of actions. -/
def pendingWords : List Action → List ChannelWord
  | [] => []
  | .word w :: t => w :: pendingWords t
  | .deselect :: t => pendingWords t
  | .delay _ :: t => pendingWords t
  | .setPhase _ _ :: t => pendingWords t
  | .setWave _ _ :: t => pendingWords t
  | .setSrc _ _ :: t => pendingWords t
  | .finish _ :: t => pendingWords t

/-- A word of one of the six emitted formats (R76). -/
def emittable (w : ChannelWord) : Bool :=
  match decode (.channel w) with
  | .ok _ => true
  | .error _ => false

/-- Every word sent and every word about to be sent has one of the six formats (R76). -/
abbrev WordsOk (s : State) : Prop :=
  (∀ w ∈ wordsOf s.trace, emittable w = true) ∧ (∀ w ∈ pendingWords s.todo, emittable w = true)

/-- A control word that holds the chip in reset: tag `00` and bit 8 set (R59). -/
def holdsReset (w : ChannelWord) : Bool := w &&& 0xC100 == 0x0100

/-- A control word that releases the chip from reset: tag `00` and bit 8 clear (R59, R238). -/
def releasesReset (w : ChannelWord) : Bool := w &&& 0xC100 == 0x0000

/-! ### Runs -/

/-- `n` steps of the machine, stopping at the first fault or refusal. -/
def runSteps (n : Nat) (s : State) : Result := Host.Core.run Sys2Proof.core n s

/-- An idle block that has had its one `BEGIN`, with a host that drives nothing (R232). -/
abbrev Ready (s : State) : Prop := s.begun = true ∧ s.seq = 0 ∧ s.todo = [] ∧ s.inputs = []

/-- The channel answers `Ok` to the next `n` words, by the answers given as an input (R52). -/
abbrev answersOk (n : Nat) (s : State) : Prop := s.answers.take n = List.replicate n .ok

/-- Where a run of one command ends when no word fails: `n` answers used, `events` appended, and the response `Ok` with
the value `v`. -/
def completed (s : State) (n : Nat) (events : List Event) (v : B32) : State :=
  { s with answers := s.answers.drop n, trace := s.trace ++ events, responses := s.responses ++ [⟨.ok, v⟩] }

/-- Where a run of one command ends when its word number `n` fails: `n` answers used, `events` appended, and the response
`TransportFault` (R204). -/
def failed (s : State) (n : Nat) (events : List Event) : State :=
  { s with answers := s.answers.drop n, trace := s.trace ++ events, responses := s.responses ++ [⟨.transportFault, 0⟩] }

/-- The channel answers `Ok` to `k` words and `Fault` to the next one (R52). -/
abbrev answersFaultAt (k : Nat) (s : State) : Prop :=
  s.cfg.transportCanFault = true ∧ s.answers.take (k + 1) = List.replicate k .ok ++ [.fault]

/-- What the six control commands do (R160 to R166): `exec i s` writes the registers of `s'` and opens one frame with the
control image of `s'`, and the run from an idle block whose word does not fail sends that word and answers `Ok`. -/
def SendsControlImage (i : Instr) (s s' : State) : Prop :=
  ∃ t, exec i s = .next t ∧
    t = { s' with
      seq := 1
      todo := .word (ctrl s') :: .deselect :: .finish (.ok 0) :: s.todo
      trace := s.trace ++ [.sel true] } ∧
    (Ready s → answersOk 1 s → runSteps 3 t = .next (completed s' 1 (frameEvents [ctrl s']) 0))

/-- What the six emitted words do (R13, R53, R204): one `Word(w)` event, then the next word of the frame on `Ok` and the end of
the operation on `Fault`. Past the answers given as an input, either may happen (R52, U2). -/
def WritesWord (i : Instr) (w : ChannelWord) : Prop :=
  ∀ s : State,
    let onOk := { s with
      seq := if wordNext s.todo then s.seq + 1 else s.seq
      answers := s.answers.tail
      drawn := if s.answers.isEmpty then s.drawn + 1 else s.drawn
      trace := s.trace ++ [.word w] }
    let onFault := { s with
      todo := [.deselect, .finish (.transportFault s.seq)]
      answers := s.answers.tail
      drawn := if s.answers.isEmpty then s.drawn + 1 else s.drawn
      trace := s.trace ++ [.word w] }
    (s.cfg.transportCanFault = false → exec i s = .next onOk) ∧
    (s.answers.head? = some .ok → exec i s = .next onOk) ∧
    (s.cfg.transportCanFault = true → s.answers.head? = some .fault → exec i s = .next onFault) ∧
    (s.cfg.transportCanFault = true → s.answers = [] → exec i s = .next onOk ∨ exec i s = .next onFault)

/-- The command `i` is accepted at this step (R34). -/
def Accepts (s : State) (i : Instr) : Prop :=
  s.seq = 0 ∧ ∃ w rest, s.inputs = .command w :: rest ∧ decode (.command w) = .ok i

/-- A hardware reset happens at this step (R231). -/
def ResetsNow (s : State) : Prop := ∃ refclk rest, s.inputs = .hardReset refclk :: rest

/-- The numeric operands of the command are acceptable (R202). -/
def operandsOk : Instr → Bool
  | .setfreq _ a => !isNaN a
  | .incfreq _ a => !isNaN a
  | .setphase _ a => isFinite a
  | .incphase _ a => isFinite a
  | .apply _ _ a _ b => !isNaN a && isFinite b
  | .begin | .reset | .setwave _ _ | .setsrc _ _ | .enout _ | .sleep _ | .dacoff _ | .clkoff _ | .getfreq _ | .getphase _
  | .getres | .wFreqCh0 _ | .wFreqCh1 _ | .wPhaseCh0 _ | .wPhaseCh1 _ | .wCtrl _ _ _ _ _ _ | .wReset => true

/-- The commands that send a control image (R238). -/
def sendsControlImage : Instr → Bool
  | .setfreq _ _ | .incfreq _ _ | .setwave _ _ | .setsrc _ _ | .enout _ | .sleep _ | .dacoff _ | .clkoff _
  | .apply _ _ _ _ _ => true
  | .begin | .reset | .setphase _ _ | .incphase _ _ | .getfreq _ | .getphase _ | .getres | .wFreqCh0 _ | .wFreqCh1 _
  | .wPhaseCh0 _ | .wPhaseCh1 _ | .wCtrl _ _ _ _ _ _ | .wReset => false

/-- No word that releases the chip from reset is about to be sent, and none can become so while `OE = 0` (R239). -/
def HeldInReset (s : State) : Prop :=
  ConfigLegal s.cfg ∧ s.oe = false ∧ ∀ w ∈ pendingWords s.todo, releasesReset w = false

/-- How many words an operation sends when no word fails (R248). -/
def wordCount : Instr → Nat
  | .setfreq _ _ | .incfreq _ _ => 3
  | .apply _ _ _ _ _ => 6
  | .getfreq _ | .getphase _ | .getres => 0
  | .begin | .reset | .setphase _ _ | .incphase _ _ | .setwave _ _ | .setsrc _ _ | .enout _ | .sleep _ | .dacoff _
  | .clkoff _ | .wFreqCh0 _ | .wFreqCh1 _ | .wPhaseCh0 _ | .wPhaseCh1 _ | .wCtrl _ _ _ _ _ _ | .wReset => 1

/-- Is the instruction one of the sixteen commands of R82? -/
def isCommand : Instr → Bool
  | .wFreqCh0 _ | .wFreqCh1 _ | .wPhaseCh0 _ | .wPhaseCh1 _ | .wCtrl _ _ _ _ _ _ | .wReset => false
  | .begin | .reset | .setfreq _ _ | .incfreq _ _ | .setphase _ _ | .incphase _ _ | .setwave _ _ | .setsrc _ _
  | .enout _ | .sleep _ | .dacoff _ | .clkoff _ | .apply _ _ _ _ _ | .getfreq _ | .getphase _ | .getres => true

end Sys2Proof.Machine
end

