-- ==== Sys2Proof/Certificates/Slice0/Obligations.lean ====
section
/-! DEFINITION. The statements for the provers. Each docstring names the rule of spec/ it formalises. Frequencies, phases and
their sums are integers in units of `2^-149` (`unit` of them make 1). -/

open Sys2Proof Sys2Proof.Machine

/-! ### Encoding -/

/-- R80 to R84, R71 to R76: the decoder gives back every well-formed instruction from its code word. -/
def Obligations.DecodeEncodeGivesInstructionBack : Prop :=
  ∀ i : Instr, i.wellFormed = true → decode (encode i) = .ok i

/-- R76: a channel word that decodes is the very word its instruction encodes to, and the instruction is well formed. The
shape patterns of a control word are general knowledge in the spec (D14, assumption 14). -/
def Obligations.ChannelWordDecodesToItself : Prop :=
  ∀ (w : ChannelWord) (i : Instr), decode (.channel w) = .ok i → encode i = .channel w ∧ i.wellFormed = true

/-- R81, R82: each of the sixteen operations decodes from its own fields alone, whatever stands in the others, and the
encoder writes zero in the others. -/
def Obligations.UnusedFieldsAreIgnoredAndWrittenZero : Prop :=
  (∀ en shape ch2 ch a b, decode (.command (packCommand 0x00 en shape ch2 ch a b)) = .ok .begin) ∧
  (∀ en shape ch2 ch a b, decode (.command (packCommand 0x01 en shape ch2 ch a b)) = .ok .reset) ∧
  (∀ en shape ch2 (ch : Chan) a b,
    decode (.command (packCommand 0x02 en shape ch2 ch.toBit a b)) = .ok (.setfreq ch a) ∧
    decode (.command (packCommand 0x03 en shape ch2 ch.toBit a b)) = .ok (.incfreq ch a) ∧
    decode (.command (packCommand 0x04 en shape ch2 ch.toBit a b)) = .ok (.setphase ch a) ∧
    decode (.command (packCommand 0x05 en shape ch2 ch.toBit a b)) = .ok (.incphase ch a) ∧
    decode (.command (packCommand 0x0D en shape ch2 ch.toBit a b)) = .ok (.getfreq ch) ∧
    decode (.command (packCommand 0x0E en shape ch2 ch.toBit a b)) = .ok (.getphase ch)) ∧
  (∀ en (shape : Shape) ch2 (ch : Chan) a b,
    decode (.command (packCommand 0x06 en shape.toBits ch2 ch.toBit a b)) = .ok (.setwave ch shape)) ∧
  (∀ en shape (pch fch : Chan) a b,
    decode (.command (packCommand 0x07 en shape pch.toBit fch.toBit a b)) = .ok (.setsrc fch pch)) ∧
  (∀ en shape ch2 ch a b,
    decode (.command (packCommand 0x08 en shape ch2 ch a b)) = .ok (.enout en) ∧
    decode (.command (packCommand 0x09 en shape ch2 ch a b)) = .ok (.sleep en) ∧
    decode (.command (packCommand 0x0A en shape ch2 ch a b)) = .ok (.dacoff en) ∧
    decode (.command (packCommand 0x0B en shape ch2 ch a b)) = .ok (.clkoff en) ∧
    decode (.command (packCommand 0x0F en shape ch2 ch a b)) = .ok .getres) ∧
  (∀ en (shape : Shape) (pch fch : Chan) a b,
    decode (.command (packCommand 0x0C en shape.toBits pch.toBit fch.toBit a b)) = .ok (.apply shape fch a pch b)) ∧
  (∀ ch a, encode (.setfreq ch a) = .command (packCommand 0x02 false 0 false ch.toBit a 0)) ∧
  (∀ ch a, encode (.incfreq ch a) = .command (packCommand 0x03 false 0 false ch.toBit a 0)) ∧
  (∀ ch a, encode (.setphase ch a) = .command (packCommand 0x04 false 0 false ch.toBit a 0)) ∧
  (∀ ch a, encode (.incphase ch a) = .command (packCommand 0x05 false 0 false ch.toBit a 0)) ∧
  (∀ ch (shape : Shape), encode (.setwave ch shape) = .command (packCommand 0x06 false shape.toBits false ch.toBit 0 0)) ∧
  (∀ fch pch, encode (.setsrc fch pch) = .command (packCommand 0x07 false 0 pch.toBit fch.toBit 0 0)) ∧
  (∀ en, encode (.enout en) = .command (packCommand 0x08 en 0 false false 0 0) ∧
    encode (.sleep en) = .command (packCommand 0x09 en 0 false false 0 0) ∧
    encode (.dacoff en) = .command (packCommand 0x0A en 0 false false 0 0) ∧
    encode (.clkoff en) = .command (packCommand 0x0B en 0 false false 0 0)) ∧
  (∀ (shape : Shape) fch a pch b,
    encode (.apply shape fch a pch b) = .command (packCommand 0x0C false shape.toBits pch.toBit fch.toBit a b)) ∧
  (∀ ch, encode (.getfreq ch) = .command (packCommand 0x0D false 0 false ch.toBit 0 0) ∧
    encode (.getphase ch) = .command (packCommand 0x0E false 0 false ch.toBit 0 0)) ∧
  encode .begin = .command (packCommand 0x00 false 0 false false 0 0) ∧
  encode .reset = .command (packCommand 0x01 false 0 false false 0 0) ∧
  encode .getres = .command (packCommand 0x0F false 0 false false 0 0)

/-- R84: decoding a command is total: one of the sixteen operations exactly when `OP` is below 16 and `RSV` is 0, and a
rejection otherwise. The spec marks R84 as its own derivation from R80, R82 and R83. -/
def Obligations.CommandDecodingIsTotal : Prop :=
  ∀ w : CommandWord,
    ((w.extractLsb' 72 8).toNat < 16 ∧ w.extractLsb' 69 3 = 0 →
      ∃ i, decode (.command w) = .ok i ∧ isCommand i = true) ∧
    (16 ≤ (w.extractLsb' 72 8).toNat ∨ w.extractLsb' 69 3 ≠ 0 → ∃ e, decode (.command w) = .error e)

/-- R70 to R76, R82: words written out from the formats decode to the instructions they stand for. The RESET word is D15
(assumption 15) and the shape pattern of the control word is D14 (assumption 14). -/
def Obligations.WordsWrittenOutDecode : Prop :=
  decodeTableWord 80 0x00000000000000000000 = some .begin ∧
  decodeTableWord 80 0x0200447A000000000000 = some (.setfreq .ch0 0x447A0000) ∧
  decodeTableWord 80 0x050141A0000000000000 = some (.incphase .ch1 0x41A00000) ∧
  decodeTableWord 80 0x06090000000000000000 = some (.setwave .ch1 .square) ∧
  decodeTableWord 80 0x07020000000000000000 = some (.setsrc .ch0 .ch1) ∧
  decodeTableWord 80 0x0C0743DC000042B40000 = some (.apply .triangle .ch1 0x43DC0000 .ch1 0x42B40000) ∧
  decodeTableWord 80 0x0E010000000000000000 = some (.getphase .ch1) ∧
  decodeTableWord 80 0x10000000000000000000 = none ∧
  decodeTableWord 16 0x69F1 = some (.wFreqCh0 0x29F1) ∧
  decodeTableWord 16 0xEF8E = some (.wPhaseCh1 0xF8E) ∧
  decodeTableWord 16 0x2928 = some (.wCtrl .ch1 .ch0 true false false 0b110) ∧
  decodeTableWord 16 0x0100 = some .wReset ∧
  decodeTableWord 16 0xD000 = none

/-- R86: the layout of the response word: the status code of R200 above a value that is 0 unless the status is `Ok`. -/
def Obligations.ResponseWordLayout : Prop :=
  ∀ (v : B32) (k : BitVec 2),
    (Ending.response (.ok v)).word.extractLsb' 32 2 = 0 ∧ (Ending.response (.ok v)).word.extractLsb' 0 32 = v ∧
    (Ending.response .badArgument).word.extractLsb' 32 2 = 1 ∧
    (Ending.response .badArgument).word.extractLsb' 0 32 = 0 ∧
    (Ending.response .illegalCommand).word.extractLsb' 32 2 = 2 ∧
    (Ending.response .illegalCommand).word.extractLsb' 0 32 = 0 ∧
    (Ending.response (.transportFault k)).word.extractLsb' 32 2 = 3 ∧
    (Ending.response (.transportFault k)).word.extractLsb' 0 32 = 0

/-- R61: a word goes onto the wire high byte first, so that its tag is in the first byte. -/
def Obligations.WireSendsHighByteFirst : Prop :=
  ∀ w : ChannelWord, ∃ high low : BitVec 8,
    wireBytes w = [high, low] ∧ w.toNat = 256 * high.toNat + low.toNat ∧ high.getLsbD 7 = w.getLsbD 15 ∧
    high.getLsbD 6 = w.getLsbD 14

/-- R89: the operands an assembler line leaves out are the frequency channel and 0.0 degrees. -/
def Obligations.AssemblerFillsInDefaults : Prop :=
  ∀ (shape : Shape) (fch pch : ChanName) (hz : Literal),
    (AsmLine.setsrc fch none).code = (AsmLine.setsrc fch (some fch)).code ∧
    (AsmLine.apply shape fch hz none).code =
      (AsmLine.apply shape fch hz (some (fch, some (.decimal 0 1)))).code ∧
    (AsmLine.apply shape fch hz (some (pch, none))).code =
      (AsmLine.apply shape fch hz (some (pch, some (.decimal 0 1)))).code

/-! ### The step -/

/-- R34, R53, R76: a step of an idle block with a command at its port is `exec` of the decoded command; a step of a block
whose next action is a word is `exec` of the decoded word, whatever the host drives but a reset. That a step is one acceptance
or one channel event, with the host's input first, is the model's choice (assumptions 5, 7, 9). -/
def Obligations.StepRunsTheDecodedInstruction : Prop :=
  (∀ (s : State) (w : CommandWord) (rest : List Input) (i : Instr),
    s.seq = 0 → s.inputs = .command w :: rest → decode (.command w) = .ok i →
    step s = exec i { s with inputs := rest }) ∧
  (∀ (s : State) (w : ChannelWord) (rest : List Action) (i : Instr),
    s.todo = .word w :: rest → decode (.channel w) = .ok i →
    (s.inputs = [] → step s = exec i { s with todo := rest }) ∧
    (∀ inputs, s.inputs = .wait :: inputs → step s = exec i { s with todo := rest, inputs := inputs }) ∧
    (∀ c inputs, s.inputs = .command c :: inputs → s.seq ≠ 0 → step s = exec i { s with todo := rest }))

/-- R34: a busy block does not accept the command at its port: it takes the step it would take with no host at all, and the
command stays where it was. The list of inputs is the model's (assumption 7). -/
def Obligations.BusyBlockLeavesTheCommandAtThePort : Prop :=
  ∀ (s : State) (w : CommandWord) (rest : List Input), s.inputs = .command w :: rest → s.seq ≠ 0 →
    ∃ t, step { s with inputs := [] } = .next t ∧ t.inputs = [] ∧ step s = .next { t with inputs := s.inputs }

/-- R201, R83: a command word with a reserved `OP` or a nonzero `RSV` changes no register, `BEGUN` included, emits no event and
answers `IllegalCommand`, before the lifecycle precondition is looked at. -/
def Obligations.IllegalCommandHasNoEffectButItsResponse : Prop :=
  ∀ (s : State) (w : CommandWord) (rest : List Input), s.seq = 0 → s.inputs = .command w :: rest →
    (16 ≤ (w.extractLsb' 72 8).toNat ∨ w.extractLsb' 69 3 ≠ 0) →
    step s = .next { s with inputs := rest, responses := s.responses ++ [⟨.illegalCommand, 0⟩] }

/-- R206, U1: a command other than `BEGIN` before `BEGIN`, and a second `BEGIN`, have no behaviour: the model stops, whatever
the operands. No other state and no other instruction stops it. The stop is the fault of the model that U1 asks for
(assumption 11). That no other state and no other instruction stops the model is the model's, and no sentence of R206. -/
def Obligations.LifecycleViolationStopsAndNothingElseDoes : Prop :=
  ∀ (s : State) (i : Instr),
    (isCommand i = true → i ≠ .begin → s.begun = false → exec i s = .fault .lifecycleViolation) ∧
    (s.begun = true → exec .begin s = .fault .lifecycleViolation) ∧
    ((∃ t, exec i s = .next t) ∨
      (exec i s = .fault .lifecycleViolation ∧ isCommand i = true ∧ (i = .begin ↔ s.begun = true)))

/-- R130, R230, R231: a hardware reset with a legal `REFCLK` takes any state, also one in the middle of a command, to the
reset values of R35, drops the rest of the command without an event or a response, and appends one `Sel(false)`; a `REFCLK` of
0 is refused. The refusal is R7's and D11's (assumption 12); the parameters, the inputs, the answers, the trace and the
responses are the model's own fields and stay (assumptions 2, 4, 7, 19). -/
def Obligations.HardwareResetFromAnyState : Prop :=
  ∀ (s : State) (refclk : BitVec 32) (rest : List Input), s.inputs = .hardReset refclk :: rest →
    (refclk = 0 → step s = .refused .illegalRefclk) ∧
    (refclk ≠ 0 → step s = .next
      { freq := ⟨s.cfg.defaultFreqHz, s.cfg.defaultFreqHz⟩
        phase := ⟨0x00000000, 0x00000000⟩
        wave := ⟨.sine, .sine⟩
        afc := .ch0
        apc := .ch0
        oe := false
        dacdis := false
        clkdis := false
        begun := false
        seq := 0
        refclk := refclk
        cfg := s.cfg
        todo := []
        inputs := rest
        answers := s.answers
        drawn := s.drawn
        trace := s.trace ++ [.sel false]
        responses := s.responses }) ∧
    (s.cfg = Config.default → s.cfg.defaultFreqHz = 0x447A0000)

/-! ### Numbers -/

/-- R11: `rnd32` of a rational number of units is the nearest binary32 pattern, a tie going to the even fraction, overflow from
`2^128 - 2^103` on, 0 to plus zero, and the identity on the value of a finite pattern. -/
def Obligations.Rnd32RoundsToNearestEven : Prop :=
  (∀ (n : Int) (d : Nat), 0 < d → n.natAbs < (2 ^ 128 - 2 ^ 103) * unit * d →
    isFinite (rnd32Quot n d) = true ∧
    ∀ b : B32, isFinite b = true →
      |val (rnd32Quot n d) * d - n| ≤ |val b * d - n| ∧
      (|val (rnd32Quot n d) * d - n| = |val b * d - n| → val b ≠ val (rnd32Quot n d) →
        fracField (rnd32Quot n d) % 2 = 0)) ∧
  (∀ (n : Int) (d : Nat), 0 < d → (2 ^ 128 - 2 ^ 103) * unit * d ≤ n.natAbs →
    rnd32Quot n d = if n < 0 then 0xFF800000 else 0x7F800000) ∧
  (∀ d : Nat, 0 < d → rnd32Quot 0 d = 0x00000000) ∧
  (∀ b : B32, isFinite b = true → val (rnd32 (val b)) = val b)

/-- R100: `clampF` of a real is 0 below 0, the ceiling above it and the real itself in between, the infinities included; and
what `SETFREQ` stores of it is exact and has sign bit 0. That the stored value is exact is an inference R100 marks as its own,
the sign bit is the spec's choice D8, and legal parameters are assumption 3. -/
def Obligations.StoredFrequencyIsTheClampedOperand : Prop :=
  (∀ cfg : Config, ConfigLegal cfg →
    (∀ n : Int, (clampF cfg (.fin n) : Int) = max 0 (min n (val cfg.maxFreqHz))) ∧
    (clampF cfg .posInf : Int) = val cfg.maxFreqHz ∧ clampF cfg .negInf = 0) ∧
  clampF Config.default (.fin (-5 * (unit : Int))) = 0 ∧
  clampF Config.default (.fin (20000000 * (unit : Int))) = 12500000 * unit ∧
  ∀ (cfg : Config) (a : B32), ConfigLegal cfg → isNaN a = false →
    let b := rnd32 (clampF cfg (denote a) : Int)
    isFinite b = true ∧ signBit b = false ∧
    (isInf a = true → signBit a = false → val b = val cfg.maxFreqHz) ∧
    (isInf a = true → signBit a = true → val b = 0) ∧
    (isFinite a = true → val a < 0 → val b = 0) ∧
    (isFinite a = true → val cfg.maxFreqHz < val a → val b = val cfg.maxFreqHz) ∧
    (isFinite a = true → 0 ≤ val a → val a ≤ val cfg.maxFreqHz → val b = val a)

/-- R101: `FW` is `floor(h * 2^28 / REFCLK + 1/2)` of the exact quotient, monotone, 0 at 0, and 10737 for 1000 Hz at 25 MHz. -/
def Obligations.FrequencyWordFormula : Prop :=
  (∀ (refclk : BitVec 32) (h : Nat), refclk ≠ 0 →
    (fw refclk h : Int) = ⌊((h : ℚ) / (unit : ℚ)) * 2 ^ 28 / (refclk.toNat : ℚ) + 1 / 2⌋) ∧
  (∀ (refclk : BitVec 32) (h h' : Nat), h ≤ h' → fw refclk h ≤ fw refclk h') ∧
  (∀ refclk : BitVec 32, refclk ≠ 0 → fw refclk 0 = 0) ∧
  fw 25000000 (1000 * unit) = 10737

/-- R102: `FW28` is `FW` modulo `2^28`; with the default ceiling no word in range is cut exactly when `REFCLK` is at least
12500001; at 25 MHz the largest word is `2^27`. The bound on `REFCLK` is an inference R102 marks as its own, and the cut to 28
bits is the spec's choice D10. -/
def Obligations.FrequencyWordFitsFrom12500001 : Prop :=
  (∀ (refclk : BitVec 32) (h : Nat), (fw28 refclk h).toNat = fw refclk h % 2 ^ 28) ∧
  (∀ refclk : BitVec 32, refclk ≠ 0 →
    ((∀ h, h ≤ maxFreq Config.default → fw refclk h < 2 ^ 28) ↔ 12500001 ≤ refclk.toNat)) ∧
  (∀ h, h ≤ maxFreq Config.default → (fw28 25000000 h).toNat ≤ 2 ^ 27) ∧
  (fw28 25000000 (maxFreq Config.default)).toNat = 2 ^ 27

/-- R103: the two half-words of a frequency update: the channel's tag over the low 14 bits and over the high 14 bits of `FW28`. -/
def Obligations.FrequencyHalvesAreTagged : Prop :=
  (∀ (refclk : BitVec 32) (ch : Chan) (h : Nat),
    let tag := match ch with | .ch0 => 0x4000 | .ch1 => 0x8000
    (freqLow refclk ch h).toNat = tag + (fw28 refclk h).toNat % 2 ^ 14 ∧
    (freqHigh refclk ch h).toNat = tag + (fw28 refclk h).toNat / 2 ^ 14) ∧
  freqLow 25000000 .ch0 (1000 * unit) = 0x69F1 ∧ freqHigh 25000000 .ch0 (1000 * unit) = 0x4000

/-- R107: `PW` is `floor(val(p) * 4096 / 360 + 1/2)` modulo 4096; from 4095.5 steps of 360/4096 degrees on it is 0; a tie goes
up. That the word is 0 from 4095.5 steps on is an inference R107 marks as its own; the tie is the spec's choice D6. -/
def Obligations.PhaseWordFormula : Prop :=
  (∀ p : B32, PhaseOk p →
    ((pw p).toNat : Int) = ⌊((val p : ℚ) / (unit : ℚ)) * 4096 / 360 + 1 / 2⌋ % 4096) ∧
  (∀ p : B32, PhaseOk p → 8191 * (fullTurn : Int) ≤ 8192 * val p → pw p = 0) ∧
  pw 0x3D340000 = 1

/-- R108: the phase word on the channel: tag `11`, the channel in bit 13, bit 12 clear, `PW` below. That bit 12 is clear is
D16 (assumption 16), and the examples are inferences R108 marks as its own. -/
def Obligations.PhaseWordFormat : Prop :=
  (∀ p : B32, (pword .ch0 p).toNat = 0xC000 + (pw p).toNat ∧ (pword .ch1 p).toNat = 0xE000 + (pw p).toNat) ∧
  pword .ch0 0x41200000 = 0xC072 ∧ pword .ch0 0x43A50000 = 0xCEAB ∧ pword .ch1 0x43340000 = 0xE800

/-- R106: `normP(x)` is the remainder `x - 360 * floor(x / 360)` rounded once, with 0 for a remainder that rounds up to 360;
it is a legal stored phase for every `x`; and for a binary32 value of at least 0 nothing is rounded. That nothing is rounded
from 0 on is general knowledge in R106 (GK4), not the source's; the 0 for 360 is the spec's choice D9. -/
def Obligations.NormalizedPhaseIsTheRemainder : Prop :=
  (∀ x q : Int, q = x - (fullTurn : Int) * ⌊(x : ℚ) / (fullTurn : ℚ)⌋ →
    0 ≤ q ∧ q < (fullTurn : Int) ∧
    normP x = if (fullTurn : Int) ≤ val (rnd32 q) then 0x00000000 else rnd32 q) ∧
  (∀ x : Int, PhaseOk (normP x)) ∧
  (∀ a : B32, isFinite a = true → 0 ≤ val a → val (normP (val a)) = val a % (fullTurn : Int)) ∧
  normP (val 0x43B90000) = 0x41200000 ∧ normP (val 0xC1F00000) = 0x43A50000 ∧ normP (val 0xB0800000) = 0x00000000

/-- R109: the phase readback is exact: `PW * 360 / 4096` degrees, at most 359.912109375. That nothing is rounded is an
inference R109 marks as its own; the formula is the spec's choice D28. -/
def Obligations.PhaseReadbackIsExact : Prop :=
  ∀ p : B32, isFinite (actualP p) = true ∧
    val (actualP p) * 4096 = (((pw p).toNat * fullTurn : Nat) : Int) ∧
    val (actualP p) * 4096 ≤ 4095 * (fullTurn : Int) ∧ 0 ≤ val (actualP p)

/-- R105: the resolution is `REFCLK / 2^28` rounded once; at 25 MHz it is exactly `0x3DBEBC20`. -/
def Obligations.ResolutionIsTheRoundedQuotient : Prop :=
  (∀ (refclk : BitVec 32) (n : Int), (n : ℚ) = (refclk.toNat : ℚ) / 2 ^ 28 * (unit : ℚ) →
    resolution refclk = rnd32 n) ∧
  resolution 25000000 = 0x3DBEBC20 ∧ val (resolution 25000000) * 2 ^ 28 = 25000000 * (unit : Int)

/-- R142 (b), R104: after a `SETFREQ` of a value in range whose words are all taken, `GETFREQ` answers with the quantized
frequency `round(hz * 2^28 / REFCLK) * REFCLK / 2^28`, rounded once, where the word fits in 28 bits. The spec marks R142 as
its own derivation from R140 and R141; the number of steps is the model's (assumption 5). -/
def Obligations.FrequencyRoundTrip : Prop :=
  ∀ (s : State) (ch : Chan) (a : B32), Ready s → answersOk 3 s → RegistersOk s → s.cfg.maxFreqHz = 0x4B3EBC20 →
    12500001 ≤ s.refclk.toNat → isFinite a = true → 0 ≤ val a → val a ≤ val s.cfg.maxFreqHz →
    ∃ t u v, exec (.setfreq ch a) s = .next t ∧ runSteps 5 t = .next u ∧ exec (.getfreq ch) u = .next v ∧
      ∀ n : Int, (n : ℚ) =
          (⌊((val a : ℚ) / (unit : ℚ)) * 2 ^ 28 / (s.refclk.toNat : ℚ) + 1 / 2⌋ : ℚ) * (s.refclk.toNat : ℚ) / 2 ^ 28
            * (unit : ℚ) →
        v.responses = u.responses ++ [⟨.ok, rnd32 n⟩]

/-! ### The control image -/

/-- R73, R111, R112: every bit of the control image, in every state with a legal shape table. Bit 13 is the spec's own
inference (R111, C1) and the zeros are D13 (assumption 16); a legal table is D14 (assumption 14). -/
def Obligations.ControlImageBits : Prop :=
  ∀ s : State, ConfigLegal s.cfg →
    (ctrl s).getLsbD 15 = false ∧ (ctrl s).getLsbD 14 = false ∧ (ctrl s).getLsbD 13 = true ∧
    (ctrl s).getLsbD 12 = false ∧ (ctrl s).getLsbD 11 = s.afc.toBit ∧ (ctrl s).getLsbD 10 = s.apc.toBit ∧
    (ctrl s).getLsbD 9 = false ∧ (ctrl s).getLsbD 8 = !s.oe ∧ (ctrl s).getLsbD 7 = s.clkdis ∧
    (ctrl s).getLsbD 6 = s.dacdis ∧
    (ctrl s).getLsbD 5 = (s.cfg.shapeBits.mask (s.wave.get s.afc)).getLsbD 5 ∧ (ctrl s).getLsbD 4 = false ∧
    (ctrl s).getLsbD 3 = (s.cfg.shapeBits.mask (s.wave.get s.afc)).getLsbD 3 ∧ (ctrl s).getLsbD 2 = false ∧
    (ctrl s).getLsbD 1 = (s.cfg.shapeBits.mask (s.wave.get s.afc)).getLsbD 1 ∧ (ctrl s).getLsbD 0 = false

/-- R113: with a legal shape table the control image determines the active shape, both selections and the three flags. The
spec marks R113 as its own derivation. -/
def Obligations.ControlImageIsInjective : Prop :=
  ∀ s t : State, ConfigLegal s.cfg → s.cfg.shapeBits = t.cfg.shapeBits → ctrl s = ctrl t →
    s.wave.get s.afc = t.wave.get t.afc ∧ s.afc = t.afc ∧ s.apc = t.apc ∧ s.oe = t.oe ∧ s.clkdis = t.clkdis ∧
    s.dacdis = t.dacdis

/-- R110: the control image depends on the selections, the flags, the shape table and the shape of the active frequency
channel, and on nothing else: not on the inactive shape, `FREQ`, `PHASE`, `BEGUN`, `SEQ` or `REFCLK`. At reset it is `0x2100`.
The value at reset takes the default shape mask of Sine, D14 (assumption 14). -/
def Obligations.ControlImageHasNoHiddenInput : Prop :=
  (∀ (s : State) (freq phase : Pair B32) (shape : Shape) (begun : Bool) (seq : BitVec 2) (refclk : BitVec 32)
    (todo : List Action) (inputs : List Input) (answers : List Answer) (drawn : Nat) (trace : List Event)
    (responses : List Response),
    ctrl { s with
      freq := freq, phase := phase, wave := s.wave.set s.afc.other shape, begun := begun, seq := seq, refclk := refclk
      todo := todo, inputs := inputs, answers := answers, drawn := drawn, trace := trace, responses := responses } = ctrl s) ∧
  ctrl State.reset = 0x2100

/-! ### What each command does -/

/-- R131, R132: `BEGIN` before `BEGIN` sets `BEGUN` and sends the RESET word, then waits the settling delay; `RESET` does the
same and writes no register. The steps of a run and `SEQ = 1` from `Sel(true)` on are the model's (assumptions 5, 6). -/
def Obligations.LifecycleCommandsComplete : Prop :=
  (∀ s : State, s.begun = false → ∃ t, exec .begin s = .next t ∧
    t = { s with
      begun := true
      seq := 1
      todo := .word s.cfg.resetWord :: .deselect :: .delay s.cfg.resetSettleMs :: .finish (.ok 0) :: s.todo
      trace := s.trace ++ [.sel true] } ∧
    (s.seq = 0 → s.todo = [] → s.inputs = [] → answersOk 1 s → runSteps 4 t = .next
      (completed { s with begun := true } 1 (frameEvents [s.cfg.resetWord] ++ [.delay s.cfg.resetSettleMs]) 0))) ∧
  (∀ s : State, s.begun = true → ∃ t, exec .reset s = .next t ∧
    t = { s with
      seq := 1
      todo := .word s.cfg.resetWord :: .deselect :: .delay s.cfg.resetSettleMs :: .finish (.ok 0) :: s.todo
      trace := s.trace ++ [.sel true] } ∧
    (Ready s → answersOk 1 s → runSteps 4 t = .next
      (completed s 1 (frameEvents [s.cfg.resetWord] ++ [.delay s.cfg.resetSettleMs]) 0)))

/-- R140: `SETFREQ` stores the clamped frequency, then sends the control image of the state as it then is, the low half and
the high half in one frame. The next state is written out in full: nothing else changes. The steps of a run and `SEQ = 1` from
`Sel(true)` on are the model's (assumptions 5, 6). -/
def Obligations.SetfreqCompletes : Prop :=
  ∀ (s : State) (ch : Chan) (a : B32), s.begun = true → isNaN a = false →
    let h := clampF s.cfg (denote a)
    let s' := { s with freq := s.freq.set ch (rnd32 (h : Int)) }
    ∃ t, exec (.setfreq ch a) s = .next t ∧
      t = { s' with
        seq := 1
        todo := .word (ctrl s') :: .word (freqLow s.refclk ch h) :: .word (freqHigh s.refclk ch h) :: .deselect ::
          .finish (.ok 0) :: s.todo
        trace := s.trace ++ [.sel true] } ∧
      (Ready s → answersOk 3 s → runSteps 5 t = .next
        (completed s' 3 (frameEvents [ctrl s', freqLow s.refclk ch h, freqHigh s.refclk ch h]) 0))

/-- R141, R114: `INCFREQ` does the same with the sum of the stored frequency and the delta, rounded once before it is clamped;
an infinite delta saturates. The steps of a run and `SEQ = 1` from `Sel(true)` on are the model's (assumptions 5, 6). -/
def Obligations.IncfreqCompletes : Prop :=
  ∀ (s : State) (ch : Chan) (a : B32), s.begun = true → isNaN a = false →
    let x := if isInf a then denote a else denote (rnd32 (val (s.freq.get ch) + val a))
    let h := clampF s.cfg x
    let s' := { s with freq := s.freq.set ch (rnd32 (h : Int)) }
    ∃ t, exec (.incfreq ch a) s = .next t ∧
      t = { s' with
        seq := 1
        todo := .word (ctrl s') :: .word (freqLow s.refclk ch h) :: .word (freqHigh s.refclk ch h) :: .deselect ::
          .finish (.ok 0) :: s.todo
        trace := s.trace ++ [.sel true] } ∧
      (Ready s → answersOk 3 s → runSteps 5 t = .next
        (completed s' 3 (frameEvents [ctrl s', freqLow s.refclk ch h, freqHigh s.refclk ch h]) 0))

/-- R150: `SETPHASE` stores the normalized phase, then sends its word alone in one frame. The steps of a run and `SEQ = 1`
from `Sel(true)` on are the model's (assumptions 5, 6). -/
def Obligations.SetphaseCompletes : Prop :=
  ∀ (s : State) (ch : Chan) (a : B32), s.begun = true → isFinite a = true →
    let p := normP (val a)
    let s' := { s with phase := s.phase.set ch p }
    ∃ t, exec (.setphase ch a) s = .next t ∧
      t = { s' with
        seq := 1
        todo := .word (pword ch p) :: .deselect :: .finish (.ok 0) :: s.todo
        trace := s.trace ++ [.sel true] } ∧
      (Ready s → answersOk 1 s → runSteps 3 t = .next (completed s' 1 (frameEvents [pword ch p]) 0))

/-- R151, R114: `INCPHASE` does the same with the sum of the stored phase and the delta, rounded once. The steps of a run and
`SEQ = 1` from `Sel(true)` on are the model's (assumptions 5, 6). -/
def Obligations.IncphaseCompletes : Prop :=
  ∀ (s : State) (ch : Chan) (a : B32), s.begun = true → isFinite a = true →
    let p := normP (val (rnd32 (val (s.phase.get ch) + val a)))
    let s' := { s with phase := s.phase.set ch p }
    ∃ t, exec (.incphase ch a) s = .next t ∧
      t = { s' with
        seq := 1
        todo := .word (pword ch p) :: .deselect :: .finish (.ok 0) :: s.todo
        trace := s.trace ++ [.sel true] } ∧
      (Ready s → answersOk 1 s → runSteps 3 t = .next (completed s' 1 (frameEvents [pword ch p]) 0))

/-- R160, R161, R166: `SETWAVE` writes one shape and `SETSRC` both selections, and each sends one control image of the state
after the write, also when the written channel is not the active one. The steps of a run and `SEQ = 1` from `Sel(true)` on are
the model's (assumptions 5, 6). -/
def Obligations.ShapeAndSourceCommandsComplete : Prop :=
  ∀ s : State, s.begun = true →
    (∀ ch shape, SendsControlImage (.setwave ch shape) s { s with wave := s.wave.set ch shape }) ∧
    (∀ fch pch, SendsControlImage (.setsrc fch pch) s { s with afc := fch, apc := pch })

/-- R162 to R166: `ENOUT` writes `OE`, `SLEEP` both power flags, `DACOFF` and `CLKOFF` one each, and each sends one control
image of the state after the write. The steps of a run and `SEQ = 1` from `Sel(true)` on are the model's (assumptions 5, 6).
-/
def Obligations.FlagCommandsComplete : Prop :=
  ∀ (s : State) (en : Bool), s.begun = true →
    SendsControlImage (.enout en) s { s with oe := en } ∧
    SendsControlImage (.sleep en) s { s with dacdis := en, clkdis := en } ∧
    SendsControlImage (.dacoff en) s { s with dacdis := en } ∧
    SendsControlImage (.clkoff en) s { s with clkdis := en }

/-- R180: `APPLY` runs the four setters in order, with a frame each: the frequency, the phase, the shape of the same frequency
channel, the selections; three control images, the first before any shape or selection change; one response. The steps of a
run and `SEQ = 1` from `Sel(true)` on are the model's (assumptions 5, 6). -/
def Obligations.ApplyCompletes : Prop :=
  ∀ (s : State) (shape : Shape) (fch : Chan) (a : B32) (pch : Chan) (b : B32),
    s.begun = true → isNaN a = false → isFinite b = true →
    let h := clampF s.cfg (denote a)
    let p := normP (val b)
    let s1 := { s with freq := s.freq.set fch (rnd32 (h : Int)) }
    let s2 := { s1 with phase := s.phase.set pch p }
    let s3 := { s2 with wave := s.wave.set fch shape }
    let s4 := { s3 with afc := fch, apc := pch }
    ∃ t, exec (.apply shape fch a pch b) s = .next t ∧
      t = { s1 with
        seq := 1
        todo := .word (ctrl s1) :: .word (freqLow s.refclk fch h) :: .word (freqHigh s.refclk fch h) :: .deselect ::
          .setPhase pch (val b) :: .setWave fch shape :: .setSrc fch pch :: .finish (.ok 0) :: s.todo
        trace := s.trace ++ [.sel true] } ∧
      (Ready s → answersOk 6 s → runSteps 14 t = .next
        (completed s4 6
          (frameEvents [ctrl s, freqLow s.refclk fch h, freqHigh s.refclk fch h] ++ frameEvents [pword pch p] ++
            frameEvents [ctrl s3] ++ frameEvents [ctrl s4]) 0))

/-- R190 to R192: a readback writes no register and sends nothing; it answers with the quantized frequency, the quantized phase
or the resolution. -/
def Obligations.ReadbacksComplete : Prop :=
  ∀ (s : State) (ch : Chan), s.begun = true →
    exec (.getfreq ch) s = .next { s with
      seq := 0
      responses := s.responses ++
        [⟨.ok, rnd32 (((fw s.refclk (magnitude (s.freq.get ch)) % 2 ^ 28) * s.refclk.toNat * 2 ^ 121 : Nat) : Int)⟩] } ∧
    exec (.getphase ch) s = .next { s with
      seq := 0
      responses := s.responses ++ [⟨.ok, rnd32 (((pw (s.phase.get ch)).toNat * 45 * 2 ^ 140 : Nat) : Int)⟩] } ∧
    exec .getres s = .next { s with
      seq := 0
      responses := s.responses ++ [⟨.ok, rnd32 ((s.refclk.toNat * 2 ^ 121 : Nat) : Int)⟩] }

/-- R71 to R75, R13, R53: each emitted word, given bit by bit, is one `MemWrite` of that word. That an emitted word is an
instruction of the sequencer is the model's choice (assumption 9), the RESET word is D15 (assumption 15), and the zeros are
D13 and D16 (assumption 16). -/
def Obligations.EmittedWordsComplete : Prop :=
  (∀ half : BitVec 14,
    WritesWord (.wFreqCh0 half) (BitVec.ofNat 16 (0x4000 + half.toNat)) ∧
    WritesWord (.wFreqCh1 half) (BitVec.ofNat 16 (0x8000 + half.toNat))) ∧
  (∀ pw : BitVec 12,
    WritesWord (.wPhaseCh0 pw) (BitVec.ofNat 16 (0xC000 + pw.toNat)) ∧
    WritesWord (.wPhaseCh1 pw) (BitVec.ofNat 16 (0xE000 + pw.toNat))) ∧
  (∀ (fsel psel : Chan) (rst clkd dacd : Bool) (shape : BitVec 3),
    WritesWord (.wCtrl fsel psel rst clkd dacd shape)
      (BitVec.ofNat 16 (0x2000 + fsel.toBit.toNat * 2 ^ 11 + psel.toBit.toNat * 2 ^ 10 + rst.toNat * 2 ^ 8
        + clkd.toNat * 2 ^ 7 + dacd.toNat * 2 ^ 6 + (shape.getLsbD 2).toNat * 2 ^ 5 + (shape.getLsbD 1).toNat * 2 ^ 3
        + (shape.getLsbD 0).toNat * 2))) ∧
  WritesWord .wReset 0x0100

/-! ### Faults -/

/-- R202: which operand patterns raise `BadArgument`, with no effect but the response, and what an accepted infinity does:
plus infinity acts as the ceiling and minus infinity as 0. The rejection of a NaN and of an infinite angle is the spec's
choice D7 (assumption 17), and legal parameters are assumption 3. -/
def Obligations.BadArgumentTable : Prop :=
  ∀ (s : State) (ch pch : Chan) (shape : Shape) (a b : B32), s.begun = true →
    let rejected : State := { s with seq := 0, responses := s.responses ++ [⟨.badArgument, 0⟩] }
    (isNaN a = true →
      exec (.setfreq ch a) s = .next rejected ∧ exec (.incfreq ch a) s = .next rejected ∧
      exec (.apply shape ch a pch b) s = .next rejected) ∧
    (isFinite b = false →
      exec (.setphase ch b) s = .next rejected ∧ exec (.incphase ch b) s = .next rejected ∧
      exec (.apply shape ch a pch b) s = .next rejected) ∧
    (ConfigLegal s.cfg →
      exec (.setfreq ch 0x7F800000) s = exec (.setfreq ch s.cfg.maxFreqHz) s ∧
      exec (.setfreq ch 0xFF800000) s = exec (.setfreq ch 0x00000000) s ∧
      exec (.incfreq ch 0x7F800000) s = exec (.setfreq ch s.cfg.maxFreqHz) s ∧
      exec (.incfreq ch 0xFF800000) s = exec (.setfreq ch 0x00000000) s ∧
      exec (.apply shape ch 0x7F800000 pch b) s = exec (.apply shape ch s.cfg.maxFreqHz pch b) s ∧
      exec (.apply shape ch 0xFF800000 pch b) s = exec (.apply shape ch 0x00000000 pch b) s)

/-- R204 for the three-word frame: when word `k + 1` of a frequency update fails, it is the last word sent, the select line is
released, the register keeps its new value, the response is `TransportFault`, and the block is idle again. The number of steps
is the model's (assumption 5). -/
def Obligations.FrequencyUpdateCutShort : Prop :=
  ∀ (s : State) (ch : Chan) (a : B32) (k : Nat), k < 3 → Ready s → answersFaultAt k s → isNaN a = false →
    (let h := clampF s.cfg (denote a)
     let s' := { s with freq := s.freq.set ch (rnd32 (h : Int)) }
     ∃ t, exec (.setfreq ch a) s = .next t ∧ runSteps 5 t = .next
       (failed s' (k + 1) (frameEvents ([ctrl s', freqLow s.refclk ch h, freqHigh s.refclk ch h].take (k + 1))))) ∧
    (let h := clampF s.cfg (addFreq (s.freq.get ch) (denote a))
     let s' := { s with freq := s.freq.set ch (rnd32 (h : Int)) }
     ∃ t, exec (.incfreq ch a) s = .next t ∧ runSteps 5 t = .next
       (failed s' (k + 1) (frameEvents ([ctrl s', freqLow s.refclk ch h, freqHigh s.refclk ch h].take (k + 1)))))

/-- R204 for the one-word frames: the failed word is in the trace, the select line is released, no settling delay follows, and
every register written before the frame keeps its value. The number of steps is the model's (assumption 5). -/
def Obligations.OneWordCommandsCutShort : Prop :=
  ∀ s : State, s.seq = 0 → s.todo = [] → s.inputs = [] → answersFaultAt 0 s →
    (s.begun = false → ∃ t, exec .begin s = .next t ∧
      runSteps 4 t = .next (failed { s with begun := true } 1 (frameEvents [s.cfg.resetWord]))) ∧
    (s.begun = true →
      (∃ t, exec .reset s = .next t ∧ runSteps 4 t = .next (failed s 1 (frameEvents [s.cfg.resetWord]))) ∧
      (∀ ch a, isFinite a = true → ∃ t, exec (.setphase ch a) s = .next t ∧ runSteps 3 t = .next
        (failed { s with phase := s.phase.set ch (normP (val a)) } 1 (frameEvents [pword ch (normP (val a))]))) ∧
      (∀ ch a, isFinite a = true →
        let p := normP (addPhase (s.phase.get ch) (val a))
        ∃ t, exec (.incphase ch a) s = .next t ∧ runSteps 3 t = .next
          (failed { s with phase := s.phase.set ch p } 1 (frameEvents [pword ch p]))) ∧
      (∀ ch shape, let s' := { s with wave := s.wave.set ch shape }
        ∃ t, exec (.setwave ch shape) s = .next t ∧ runSteps 3 t = .next (failed s' 1 (frameEvents [ctrl s']))) ∧
      (∀ fch pch, let s' := { s with afc := fch, apc := pch }
        ∃ t, exec (.setsrc fch pch) s = .next t ∧ runSteps 3 t = .next (failed s' 1 (frameEvents [ctrl s']))) ∧
      (∀ en, let s' := { s with oe := en }
        ∃ t, exec (.enout en) s = .next t ∧ runSteps 3 t = .next (failed s' 1 (frameEvents [ctrl s']))) ∧
      (∀ en, let s' := { s with dacdis := en, clkdis := en }
        ∃ t, exec (.sleep en) s = .next t ∧ runSteps 3 t = .next (failed s' 1 (frameEvents [ctrl s']))) ∧
      (∀ en, let s' := { s with dacdis := en }
        ∃ t, exec (.dacoff en) s = .next t ∧ runSteps 3 t = .next (failed s' 1 (frameEvents [ctrl s']))) ∧
      (∀ en, let s' := { s with clkdis := en }
        ∃ t, exec (.clkoff en) s = .next t ∧ runSteps 3 t = .next (failed s' 1 (frameEvents [ctrl s']))))

/-- R204 (d), (e) for `APPLY`: when one of its six words fails, the sub-operation it belongs to has written its register, the
later ones have not started, and every word before it has been sent. The number of steps is the model's (assumption 5). -/
def Obligations.ApplyCutShort : Prop :=
  ∀ (s : State) (shape : Shape) (fch : Chan) (a : B32) (pch : Chan) (b : B32) (k : Nat), k < 6 → Ready s →
    answersFaultAt k s → isNaN a = false → isFinite b = true →
    let h := clampF s.cfg (denote a)
    let p := normP (val b)
    let s1 := { s with freq := s.freq.set fch (rnd32 (h : Int)) }
    let s2 := { s1 with phase := s.phase.set pch p }
    let s3 := { s2 with wave := s.wave.set fch shape }
    let s4 := { s3 with afc := fch, apc := pch }
    let f1 := [ctrl s, freqLow s.refclk fch h, freqHigh s.refclk fch h]
    ∃ t, exec (.apply shape fch a pch b) s = .next t ∧ runSteps 14 t = .next
      (if k < 3 then failed s1 (k + 1) (frameEvents (f1.take (k + 1)))
       else if k = 3 then failed s2 4 (frameEvents f1 ++ frameEvents [pword pch p])
       else if k = 4 then failed s3 5 (frameEvents f1 ++ frameEvents [pword pch p] ++ frameEvents [ctrl s3])
       else failed s4 6
         (frameEvents f1 ++ frameEvents [pword pch p] ++ frameEvents [ctrl s3] ++ frameEvents [ctrl s4]))

/-! ### Properties of the operations -/

/-- R142 (a), and R141's saturation: a frequency below 0 acts as 0 and one above the ceiling as the ceiling, in the register,
in the words and so in everything after. The spec marks R142 as its own derivation; a legal ceiling is R7's. -/
def Obligations.OutOfRangeFrequencyActsAsTheBound : Prop :=
  ∀ (s : State) (ch : Chan) (a : B32), ConfigLegal s.cfg → isFinite a = true →
    (val a ≤ 0 → exec (.setfreq ch a) s = exec (.setfreq ch 0x00000000) s) ∧
    (val s.cfg.maxFreqHz ≤ val a → exec (.setfreq ch a) s = exec (.setfreq ch s.cfg.maxFreqHz) s) ∧
    (val (s.freq.get ch) + val a ≤ 0 → exec (.incfreq ch a) s = exec (.setfreq ch 0x00000000) s)

/-- R142 (c), and the same for phases: an increment whose sum is a binary32 value acts as the setter of the sum. The spec
marks R142 as its own derivation; the statement holds also of patterns no register reaches (assumption 18). -/
def Obligations.IncrementActsAsTheSetterOfTheSum : Prop :=
  ∀ (s : State) (ch : Chan) (d x : B32), isFinite d = true → isFinite x = true →
    (val x = val (s.freq.get ch) + val d → exec (.incfreq ch d) s = exec (.setfreq ch x) s) ∧
    (val x = val (s.phase.get ch) + val d → exec (.incphase ch d) s = exec (.setphase ch x) s)

/-- R150, "setPhase(ch, 370) is setPhase(ch, 10)": two angles that differ by whole turns act alike. -/
def Obligations.PhaseActsModulo360 : Prop :=
  ∀ (s : State) (ch : Chan) (a b : B32) (k : Int), isFinite a = true → isFinite b = true →
    val a = val b + k * (fullTurn : Int) → exec (.setphase ch a) s = exec (.setphase ch b) s

/-- R181: `OE`, `DACDIS` and `CLKDIS` after `APPLY` are what they were before it, at every step of it, however its words are
answered. The spec marks the general form of R181 as its own derivation from R180. -/
def Obligations.ApplyKeepsTheFlags : Prop :=
  ∀ (s t u : State) (shape : Shape) (fch : Chan) (a : B32) (pch : Chan) (b : B32) (n : Nat), s.inputs = [] →
    exec (.apply shape fch a pch b) s = .next t → runSteps n t = .next u →
    u.oe = s.oe ∧ u.dacdis = s.dacdis ∧ u.clkdis = s.clkdis

/-- R248: how many words each command sends from an idle block when no word fails. The spec marks these numbers as its own
derivation from the event lists. -/
def Obligations.WordsPerCommand : Prop :=
  ∀ (s : State) (i : Instr), s.seq = 0 → s.todo = [] → s.inputs = [] → answersOk 6 s → isCommand i = true →
    operandsOk i = true → (i = .begin ↔ s.begun = false) →
    ∃ t u, exec i s = .next t ∧ runSteps 14 t = .next u ∧ u.seq = 0 ∧
      (wordsOf u.trace).length = (wordsOf s.trace).length + wordCount i

/-- R238: among the words a command sends from an idle block when no word fails there is one with tag `00` and bit 8 clear
exactly when `OE` is 1 at its end and it is one of the nine that send a control image. The spec marks R238 as its own
derivation from R110; legal parameters are assumption 3. -/
def Obligations.ReleasingWordsNeedOutputEnabled : Prop :=
  ∀ (s : State) (i : Instr), ConfigLegal s.cfg → s.seq = 0 → s.todo = [] → s.inputs = [] → answersOk 6 s →
    isCommand i = true → operandsOk i = true → (i = .begin ↔ s.begun = false) →
    ∃ t u words, exec i s = .next t ∧ runSteps 14 t = .next u ∧ wordsOf u.trace = wordsOf s.trace ++ words ∧
      ((∃ w ∈ words, releasesReset w = true) ↔ (sendsControlImage i = true ∧ u.oe = true))

/-- R249: every command that an idle block accepts is over after at most 14 more steps and 14 channel events, however its
words are answered, with exactly one response. The spec marks the number 14 as its own derivation from R180; a step is the
model's (assumption 5). -/
def Obligations.EveryCommandTerminates : Prop :=
  ∀ (s t : State) (i : Instr), s.seq = 0 → s.todo = [] → s.inputs = [] → isCommand i = true → exec i s = .next t →
    ∃ u, runSteps 14 t = .next u ∧ u.seq = 0 ∧ u.todo = [] ∧ u.trace.length ≤ s.trace.length + 14 ∧
      u.responses.length = s.responses.length + 1

/-! ### Rules of the whole machine -/

/-- R21 to R33, R7: which register a step may change, and through which command. The parameters and `REFCLK` are written by a
hardware reset at most, and the parameters not even by that. -/
def Obligations.RegistersChangeOnlyThroughTheirCommands : Prop :=
  ∀ s t : State, step s = .next t →
    t.cfg = s.cfg ∧
    (¬ ResetsNow s →
      t.refclk = s.refclk ∧
      (t.begun ≠ s.begun → Accepts s .begin) ∧
      (t.oe ≠ s.oe → ∃ en, Accepts s (.enout en)) ∧
      (t.dacdis ≠ s.dacdis → ∃ en, Accepts s (.dacoff en) ∨ Accepts s (.sleep en)) ∧
      (t.clkdis ≠ s.clkdis → ∃ en, Accepts s (.clkoff en) ∨ Accepts s (.sleep en)) ∧
      (∀ ch, t.freq.get ch ≠ s.freq.get ch → ∃ a, Accepts s (.setfreq ch a) ∨ Accepts s (.incfreq ch a) ∨
        ∃ shape pch b, Accepts s (.apply shape ch a pch b)) ∧
      (∀ ch, t.phase.get ch ≠ s.phase.get ch → (∃ a, Accepts s (.setphase ch a) ∨ Accepts s (.incphase ch a)) ∨
        ∃ x rest, s.todo = .setPhase ch x :: rest) ∧
      (∀ ch, t.wave.get ch ≠ s.wave.get ch → (∃ shape, Accepts s (.setwave ch shape)) ∨
        ∃ shape rest, s.todo = .setWave ch shape :: rest) ∧
      (t.afc ≠ s.afc ∨ t.apc ≠ s.apc → (∃ fch pch, Accepts s (.setsrc fch pch)) ∨
        ∃ fch pch rest, s.todo = .setSrc fch pch :: rest))

/-- R36, R14: no rule reads the trace or the responses: with another past behind it, a step appends the same events and
responses and does the same otherwise. That both stand in the state at all is the model's choice (assumption 19). -/
def Obligations.NoStepReadsTheTrace : Prop :=
  ∀ (s t : State) (trace : List Event) (responses : List Response), step s = .next t →
    ∃ events answered, t.trace = s.trace ++ events ∧ t.responses = s.responses ++ answered ∧
      step { s with trace := trace, responses := responses } =
        .next { t with trace := trace ++ events, responses := responses ++ answered }

/-- R7, R21, R22, R31, R53, R76 at reset: the four invariants below hold of the state after hardware reset. `REFCLK` of the
reset state is the model's choice (assumption 1), legal parameters are assumption 3, and the fourth takes the default shape
table and RESET word (assumptions 14, 15). -/
def Obligations.InvariantsHoldAtReset : Prop :=
  RegistersOk State.reset ∧ SequencerOk State.reset ∧ FramingOk State.reset ∧ WordsOk State.reset

/-- R21, R22: every step keeps the stored frequencies clamped and the stored phases normalized, with sign bit 0. Legal
parameters are assumption 3. -/
def Obligations.StepKeepsRegistersClampedAndNormalized : Prop :=
  ∀ s t : State, RegistersOk s → step s = .next t → RegistersOk t

/-- R31, R34, R53: every step keeps `SEQ = 0` meaning idle, and a running operation the rest of one operation with at most
three words left in the frame. The rest of the operation is the model's field (assumption 5). -/
def Obligations.StepKeepsSequencerInStep : Prop :=
  ∀ s t : State, SequencerOk s → step s = .next t → SequencerOk t

/-- R53, R243: every step keeps each word between a `Sel(true)` and its `Sel(false)`. -/
def Obligations.StepKeepsWordsInsideFrames : Prop :=
  ∀ s t : State, SequencerOk s → FramingOk s → step s = .next t → FramingOk t

/-- R76: with the default shape table and RESET word, every step keeps every word sent and about to be sent one of the six
formats. The shape values are the spec's parameter (D14) and the statement says that it takes the default ones. (assumptions
14, 15) -/
def Obligations.StepSendsOnlyTheSixFormats : Prop :=
  ∀ s t : State, s.cfg.shapeBits = Config.default.shapeBits → s.cfg.resetWord = Config.default.resetWord → WordsOk s →
    step s = .next t → WordsOk t

/-- R239: after reset, and while `OE` is 0 and no `ENOUT true` is accepted, no step sends a word that releases the chip from
reset, and the block stays in a state from which none is sent. The spec marks R239 as its own derivation from R26 and R238;
legal parameters are assumption 3. -/
def Obligations.DisabledOutputNeverReleasesReset : Prop :=
  HeldInReset State.reset ∧ ∀ s t : State, HeldInReset s → ¬ Accepts s (.enout true) → step s = .next t →
    HeldInReset t ∧ ∃ events, t.trace = s.trace ++ events ∧ ∀ w ∈ wordsOf events, releasesReset w = false

/-- R23: writing one channel's cell leaves the other channel's cell alone, for the frequencies, the phases and the shapes: stated of
the run of each setter on an idle block, whatever the channel answers. -/
def Obligations.OtherChannelIsUntouched : Prop :=
  ∀ (s t u : State) (ch : Chan) (n : Nat), s.seq = 0 → s.todo = [] → s.inputs = [] → runSteps n t = .next u →
    ((∃ a, exec (.setfreq ch a) s = .next t ∨ exec (.incfreq ch a) s = .next t) →
      u.freq.get ch.other = s.freq.get ch.other ∧ u.phase = s.phase ∧ u.wave = s.wave) ∧
    ((∃ a, exec (.setphase ch a) s = .next t ∨ exec (.incphase ch a) s = .next t) →
      u.phase.get ch.other = s.phase.get ch.other ∧ u.freq = s.freq ∧ u.wave = s.wave) ∧
    ((∃ shape, exec (.setwave ch shape) s = .next t) →
      u.wave.get ch.other = s.wave.get ch.other ∧ u.freq = s.freq ∧ u.phase = s.phase)
end

