-- ==== Sys2Proof/Laws/State.lean ====
section
/-! SUPPORT. One lemma per field per update of the state, and the two cells of a pair. -/

namespace Sys2Proof

@[simp] theorem Pair.get_set_same {α : Type} (p : Pair α) (ch : Chan) (v : α) : (p.set ch v).get ch = v := by cases ch <;> rfl

@[simp] theorem Pair.get_set_other {α : Type} (p : Pair α) (ch : Chan) (v : α) : (p.set ch v).get ch.other = p.get ch.other := by
  cases ch <;> rfl

theorem Pair.get_set {α : Type} (p : Pair α) (ch ch' : Chan) (v : α) :
    (p.set ch v).get ch' = if ch' = ch then v else p.get ch' := by cases ch <;> cases ch' <;> rfl

theorem Pair.ext_get {α : Type} {p q : Pair α} (h : ∀ ch, p.get ch = q.get ch) : p = q := by
  cases p; cases q; have h0 := h .ch0; have h1 := h .ch1; simp only [Pair.get] at h0 h1; rw [h0, h1]

@[simp] theorem Chan.ofBit_toBit (ch : Chan) : Chan.ofBit ch.toBit = ch := by cases ch <;> rfl

@[simp] theorem Chan.toBit_ofBit (b : Bool) : (Chan.ofBit b).toBit = b := by cases b <;> rfl

@[simp] theorem Shape.ofBits_toBits (s : Shape) : Shape.ofBits s.toBits = s := by cases s <;> rfl

namespace Machine

/-! ### `emit` -/

@[simp] theorem emit_freq (e : Event) (s : State) : (emit e s).freq = s.freq := rfl

@[simp] theorem emit_phase (e : Event) (s : State) : (emit e s).phase = s.phase := rfl

@[simp] theorem emit_wave (e : Event) (s : State) : (emit e s).wave = s.wave := rfl

@[simp] theorem emit_afc (e : Event) (s : State) : (emit e s).afc = s.afc := rfl

@[simp] theorem emit_apc (e : Event) (s : State) : (emit e s).apc = s.apc := rfl

@[simp] theorem emit_oe (e : Event) (s : State) : (emit e s).oe = s.oe := rfl

@[simp] theorem emit_dacdis (e : Event) (s : State) : (emit e s).dacdis = s.dacdis := rfl

@[simp] theorem emit_clkdis (e : Event) (s : State) : (emit e s).clkdis = s.clkdis := rfl

@[simp] theorem emit_begun (e : Event) (s : State) : (emit e s).begun = s.begun := rfl

@[simp] theorem emit_seq (e : Event) (s : State) : (emit e s).seq = s.seq := rfl

@[simp] theorem emit_refclk (e : Event) (s : State) : (emit e s).refclk = s.refclk := rfl

@[simp] theorem emit_cfg (e : Event) (s : State) : (emit e s).cfg = s.cfg := rfl

@[simp] theorem emit_todo (e : Event) (s : State) : (emit e s).todo = s.todo := rfl

@[simp] theorem emit_inputs (e : Event) (s : State) : (emit e s).inputs = s.inputs := rfl

@[simp] theorem emit_answers (e : Event) (s : State) : (emit e s).answers = s.answers := rfl

@[simp] theorem emit_drawn (e : Event) (s : State) : (emit e s).drawn = s.drawn := rfl

@[simp] theorem emit_trace (e : Event) (s : State) : (emit e s).trace = s.trace ++ [e] := rfl

@[simp] theorem emit_responses (e : Event) (s : State) : (emit e s).responses = s.responses := rfl

/-! ### `finish` -/

@[simp] theorem finish_freq (e : Ending) (s : State) : (finish e s).freq = s.freq := rfl

@[simp] theorem finish_phase (e : Ending) (s : State) : (finish e s).phase = s.phase := rfl

@[simp] theorem finish_wave (e : Ending) (s : State) : (finish e s).wave = s.wave := rfl

@[simp] theorem finish_afc (e : Ending) (s : State) : (finish e s).afc = s.afc := rfl

@[simp] theorem finish_apc (e : Ending) (s : State) : (finish e s).apc = s.apc := rfl

@[simp] theorem finish_oe (e : Ending) (s : State) : (finish e s).oe = s.oe := rfl

@[simp] theorem finish_dacdis (e : Ending) (s : State) : (finish e s).dacdis = s.dacdis := rfl

@[simp] theorem finish_clkdis (e : Ending) (s : State) : (finish e s).clkdis = s.clkdis := rfl

@[simp] theorem finish_begun (e : Ending) (s : State) : (finish e s).begun = s.begun := rfl

@[simp] theorem finish_seq (e : Ending) (s : State) : (finish e s).seq = 0 := rfl

@[simp] theorem finish_refclk (e : Ending) (s : State) : (finish e s).refclk = s.refclk := rfl

@[simp] theorem finish_cfg (e : Ending) (s : State) : (finish e s).cfg = s.cfg := rfl

@[simp] theorem finish_todo (e : Ending) (s : State) : (finish e s).todo = s.todo := rfl

@[simp] theorem finish_inputs (e : Ending) (s : State) : (finish e s).inputs = s.inputs := rfl

@[simp] theorem finish_answers (e : Ending) (s : State) : (finish e s).answers = s.answers := rfl

@[simp] theorem finish_drawn (e : Ending) (s : State) : (finish e s).drawn = s.drawn := rfl

@[simp] theorem finish_trace (e : Ending) (s : State) : (finish e s).trace = s.trace := rfl

@[simp] theorem finish_responses (e : Ending) (s : State) : (finish e s).responses = s.responses ++ [e.response] := rfl

/-! ### `thenDone` -/

@[simp] theorem thenDone_freq (s : State) : (thenDone s).freq = s.freq := rfl

@[simp] theorem thenDone_phase (s : State) : (thenDone s).phase = s.phase := rfl

@[simp] theorem thenDone_wave (s : State) : (thenDone s).wave = s.wave := rfl

@[simp] theorem thenDone_afc (s : State) : (thenDone s).afc = s.afc := rfl

@[simp] theorem thenDone_apc (s : State) : (thenDone s).apc = s.apc := rfl

@[simp] theorem thenDone_oe (s : State) : (thenDone s).oe = s.oe := rfl

@[simp] theorem thenDone_dacdis (s : State) : (thenDone s).dacdis = s.dacdis := rfl

@[simp] theorem thenDone_clkdis (s : State) : (thenDone s).clkdis = s.clkdis := rfl

@[simp] theorem thenDone_begun (s : State) : (thenDone s).begun = s.begun := rfl

@[simp] theorem thenDone_seq (s : State) : (thenDone s).seq = s.seq := rfl

@[simp] theorem thenDone_refclk (s : State) : (thenDone s).refclk = s.refclk := rfl

@[simp] theorem thenDone_cfg (s : State) : (thenDone s).cfg = s.cfg := rfl

@[simp] theorem thenDone_todo (s : State) : (thenDone s).todo = .finish (.ok 0) :: s.todo := rfl

@[simp] theorem thenDone_inputs (s : State) : (thenDone s).inputs = s.inputs := rfl

@[simp] theorem thenDone_answers (s : State) : (thenDone s).answers = s.answers := rfl

@[simp] theorem thenDone_drawn (s : State) : (thenDone s).drawn = s.drawn := rfl

@[simp] theorem thenDone_trace (s : State) : (thenDone s).trace = s.trace := rfl

@[simp] theorem thenDone_responses (s : State) : (thenDone s).responses = s.responses := rfl

/-! ### `openFrame` -/

@[simp] theorem openFrame_freq (ws : List ChannelWord) (s : State) : (openFrame ws s).freq = s.freq := rfl

@[simp] theorem openFrame_phase (ws : List ChannelWord) (s : State) : (openFrame ws s).phase = s.phase := rfl

@[simp] theorem openFrame_wave (ws : List ChannelWord) (s : State) : (openFrame ws s).wave = s.wave := rfl

@[simp] theorem openFrame_afc (ws : List ChannelWord) (s : State) : (openFrame ws s).afc = s.afc := rfl

@[simp] theorem openFrame_apc (ws : List ChannelWord) (s : State) : (openFrame ws s).apc = s.apc := rfl

@[simp] theorem openFrame_oe (ws : List ChannelWord) (s : State) : (openFrame ws s).oe = s.oe := rfl

@[simp] theorem openFrame_dacdis (ws : List ChannelWord) (s : State) : (openFrame ws s).dacdis = s.dacdis := rfl

@[simp] theorem openFrame_clkdis (ws : List ChannelWord) (s : State) : (openFrame ws s).clkdis = s.clkdis := rfl

@[simp] theorem openFrame_begun (ws : List ChannelWord) (s : State) : (openFrame ws s).begun = s.begun := rfl

@[simp] theorem openFrame_seq (ws : List ChannelWord) (s : State) : (openFrame ws s).seq = 1 := rfl

@[simp] theorem openFrame_refclk (ws : List ChannelWord) (s : State) : (openFrame ws s).refclk = s.refclk := rfl

@[simp] theorem openFrame_cfg (ws : List ChannelWord) (s : State) : (openFrame ws s).cfg = s.cfg := rfl

@[simp] theorem openFrame_todo (ws : List ChannelWord) (s : State) : (openFrame ws s).todo = ws.map .word ++ (.deselect :: s.todo) := rfl

@[simp] theorem openFrame_inputs (ws : List ChannelWord) (s : State) : (openFrame ws s).inputs = s.inputs := rfl

@[simp] theorem openFrame_answers (ws : List ChannelWord) (s : State) : (openFrame ws s).answers = s.answers := rfl

@[simp] theorem openFrame_drawn (ws : List ChannelWord) (s : State) : (openFrame ws s).drawn = s.drawn := rfl

@[simp] theorem openFrame_trace (ws : List ChannelWord) (s : State) : (openFrame ws s).trace = s.trace ++ [.sel true] := rfl

@[simp] theorem openFrame_responses (ws : List ChannelWord) (s : State) : (openFrame ws s).responses = s.responses := rfl

/-! ### `memWrite`: what no answer changes -/

@[simp] theorem memWrite_freq (w : ChannelWord) (s : State) : (memWrite w s).freq = s.freq := by
  unfold memWrite; split <;> rfl

@[simp] theorem memWrite_phase (w : ChannelWord) (s : State) : (memWrite w s).phase = s.phase := by
  unfold memWrite; split <;> rfl

@[simp] theorem memWrite_wave (w : ChannelWord) (s : State) : (memWrite w s).wave = s.wave := by
  unfold memWrite; split <;> rfl

@[simp] theorem memWrite_afc (w : ChannelWord) (s : State) : (memWrite w s).afc = s.afc := by
  unfold memWrite; split <;> rfl

@[simp] theorem memWrite_apc (w : ChannelWord) (s : State) : (memWrite w s).apc = s.apc := by
  unfold memWrite; split <;> rfl

@[simp] theorem memWrite_oe (w : ChannelWord) (s : State) : (memWrite w s).oe = s.oe := by
  unfold memWrite; split <;> rfl

@[simp] theorem memWrite_dacdis (w : ChannelWord) (s : State) : (memWrite w s).dacdis = s.dacdis := by
  unfold memWrite; split <;> rfl

@[simp] theorem memWrite_clkdis (w : ChannelWord) (s : State) : (memWrite w s).clkdis = s.clkdis := by
  unfold memWrite; split <;> rfl

@[simp] theorem memWrite_begun (w : ChannelWord) (s : State) : (memWrite w s).begun = s.begun := by
  unfold memWrite; split <;> rfl

@[simp] theorem memWrite_refclk (w : ChannelWord) (s : State) : (memWrite w s).refclk = s.refclk := by
  unfold memWrite; split <;> rfl

@[simp] theorem memWrite_cfg (w : ChannelWord) (s : State) : (memWrite w s).cfg = s.cfg := by
  unfold memWrite; split <;> rfl

@[simp] theorem memWrite_inputs (w : ChannelWord) (s : State) : (memWrite w s).inputs = s.inputs := by
  unfold memWrite; split <;> rfl

@[simp] theorem memWrite_responses (w : ChannelWord) (s : State) : (memWrite w s).responses = s.responses := by
  unfold memWrite; split <;> rfl

@[simp] theorem memWrite_trace (w : ChannelWord) (s : State) : (memWrite w s).trace = s.trace ++ [.word w] := by
  unfold memWrite; split <;> rfl

@[simp] theorem memWrite_answers (w : ChannelWord) (s : State) : (memWrite w s).answers = s.answers.tail := by
  unfold memWrite; split <;> rfl

end Machine

end Sys2Proof
end

