-- ==== Sys2Proof/Laws/Decode.lean ====
section
/-! SUPPORT. The fields of a packed command word, the bits of the word formatters, and the formatters on the fields of a word
whose fixed bits are known. -/

namespace Sys2Proof

/-! ### Command words (R80) -/

section Fields

variable (op : BitVec 8) (en : Bool) (shape : BitVec 2) (ch2 ch : Bool) (a b : B32)

@[simp] theorem opField_packCommand : opField (packCommand op en shape ch2 ch a b) = op := by
  apply BitVec.eq_of_getLsbD_eq
  intro i hi
  simp only [opField, packCommand, BitVec.getLsbD_extractLsb', BitVec.getLsbD_append]
  simp +arith [hi]

@[simp] theorem rsvField_packCommand : rsvField (packCommand op en shape ch2 ch a b) = 0 := by
  apply BitVec.eq_of_getLsbD_eq
  intro i hi
  simp only [rsvField, packCommand, BitVec.getLsbD_extractLsb', BitVec.getLsbD_append]
  simp +arith [hi]

@[simp] theorem enField_packCommand : enField (packCommand op en shape ch2 ch a b) = en := by
  simp only [enField, packCommand, BitVec.getLsbD_append]
  simp

@[simp] theorem shapeField_packCommand :
    shapeField (packCommand op en shape ch2 ch a b) = Shape.ofBits shape := by
  unfold shapeField
  congr 1
  apply BitVec.eq_of_getLsbD_eq
  intro i hi
  simp only [packCommand, BitVec.getLsbD_extractLsb', BitVec.getLsbD_append]
  simp +arith [hi]

@[simp] theorem ch2Field_packCommand : ch2Field (packCommand op en shape ch2 ch a b) = Chan.ofBit ch2 := by
  simp only [ch2Field, packCommand, BitVec.getLsbD_append]
  simp

@[simp] theorem chField_packCommand : chField (packCommand op en shape ch2 ch a b) = Chan.ofBit ch := by
  simp only [chField, packCommand, BitVec.getLsbD_append]
  simp

@[simp] theorem aField_packCommand : aField (packCommand op en shape ch2 ch a b) = a := by
  apply BitVec.eq_of_getLsbD_eq
  intro i hi
  simp only [aField, packCommand, BitVec.getLsbD_extractLsb', BitVec.getLsbD_append]
  simp +arith [hi]

@[simp] theorem bField_packCommand : bField (packCommand op en shape ch2 ch a b) = b := by
  apply BitVec.eq_of_getLsbD_eq
  intro i hi
  simp only [bField, packCommand, BitVec.getLsbD_extractLsb', BitVec.getLsbD_append]
  simp +arith [hi]

end Fields

/-! ### Channel words (R71 to R76) -/

/-- What a masked comparison says of one bit. -/
theorem mask_bit {n : Nat} {w m v : BitVec n} (h : w &&& m = v) (i : Nat) :
    (w.getLsbD i && m.getLsbD i) = v.getLsbD i := by
  rw [← h, BitVec.getLsbD_and]

@[simp] theorem flagWord_getElem (b : Bool) (i : Nat) (h : i < 16) : (flagWord b)[i] = (decide (i = 0) && b) := by
  cases b <;> simp [flagWord]

@[simp] theorem chanWord_getElem (c : Chan) (i : Nat) (h : i < 16) : (chanWord c)[i] = (decide (i = 0) && c.toBit) := by
  cases c <;> simp [chanWord, Chan.toBit]

@[simp] theorem shapePattern_bit0 (w : ChannelWord) : (shapePattern w)[0] = w[1] := by
  rw [← BitVec.getLsbD_eq_getElem]
  simp only [shapePattern, BitVec.getLsbD_append]
  simp

@[simp] theorem shapePattern_bit1 (w : ChannelWord) : (shapePattern w)[1] = w[3] := by
  rw [← BitVec.getLsbD_eq_getElem]
  simp only [shapePattern, BitVec.getLsbD_append]
  simp

@[simp] theorem shapePattern_bit2 (w : ChannelWord) : (shapePattern w)[2] = w[5] := by
  rw [← BitVec.getLsbD_eq_getElem]
  simp only [shapePattern, BitVec.getLsbD_append]
  simp

/-- A word with a frequency tag is the frequency word of its low 14 bits. -/
theorem freqWord_extract {w : ChannelWord} (ch : Chan) (h : w &&& 0xC000 = ftag ch) :
    freqWord ch (w.extractLsb' 0 14) = w := by
  have h15 := mask_bit h 15
  have h14 := mask_bit h 14
  apply BitVec.eq_of_getLsbD_eq
  intro i hi
  rcases (by omega : i < 14 ∨ i = 14 ∨ i = 15) with hi | rfl | rfl
  · cases ch <;> interval_cases i <;> simp [freqWord, ftag]
  · cases ch <;> simp_all [freqWord, ftag]
  · cases ch <;> simp_all [freqWord, ftag]

/-- A word with the top bits of a phase word is the phase word of its low 12 bits. -/
theorem phaseWord_extract {w : ChannelWord} (ch : Chan) (h : w &&& 0xF000 = 0xC000 ||| (chanWord ch <<< 13)) :
    phaseWord ch (w.extractLsb' 0 12) = w := by
  have h15 := mask_bit h 15
  have h14 := mask_bit h 14
  have h13 := mask_bit h 13
  have h12 := mask_bit h 12
  apply BitVec.eq_of_getLsbD_eq
  intro i hi
  rcases (by omega : i < 12 ∨ i = 12 ∨ i = 13 ∨ i = 14 ∨ i = 15) with hi | rfl | rfl | rfl | rfl
  · cases ch <;> interval_cases i <;> simp [phaseWord]
  all_goals cases ch <;> simp_all [phaseWord, Chan.toBit]

/-- A word with the fixed bits of a control word is the control word of its fields. -/
theorem ctrlWord_extract {w : ChannelWord} (h : w &&& 0xF215 = 0x2000) :
    ctrlWord (Chan.ofBit (w.getLsbD 11)) (Chan.ofBit (w.getLsbD 10)) (w.getLsbD 8) (w.getLsbD 7) (w.getLsbD 6)
      (shapePattern w) = w := by
  have hb := mask_bit h
  apply BitVec.eq_of_getLsbD_eq
  intro i hi
  have hi' := hb i
  interval_cases i <;> simp_all [ctrlWord, shapeMask]

end Sys2Proof
end

