-- ==== Sys2Proof/Laws/Ops.lean ====
section
/-! SUPPORT. What each shared operation can do, said once: the answer to a word, the word write, the precondition, the
sequencer's actions, and the cases of a step. -/

namespace Sys2Proof.Machine

/-! ### The channel's answer (R52) -/

theorem nextAnswer_cannot_fault {s : State} (h : s.cfg.transportCanFault = false) : nextAnswer s = .ok := by
  simp [nextAnswer, h]

theorem nextAnswer_given {s : State} {a : Answer} {rest : List Answer} (h : s.answers = a :: rest)
    (hc : s.cfg.transportCanFault = true) : nextAnswer s = a := by
  simp [nextAnswer, h, hc]

theorem nextAnswer_ok_given {s : State} {rest : List Answer} (h : s.answers = .ok :: rest) : nextAnswer s = .ok := by
  cases hc : s.cfg.transportCanFault <;> simp [nextAnswer, h, hc]

theorem nextAnswer_cases (s : State) : nextAnswer s = .ok ∨ nextAnswer s = .fault := by
  cases nextAnswer s <;> simp

/-! ### The word write (R53) -/

theorem memWrite_of_ok {w : ChannelWord} {s : State} (h : nextAnswer s = .ok) :
    memWrite w s = { s with
      seq := if wordNext s.todo then s.seq + 1 else s.seq
      answers := s.answers.tail
      drawn := if s.answers.isEmpty then s.drawn + 1 else s.drawn
      trace := s.trace ++ [.word w] } := by
  simp [memWrite, h, emit, takeAnswer]

theorem memWrite_of_fault {w : ChannelWord} {s : State} (h : nextAnswer s = .fault) :
    memWrite w s = { s with
      todo := [.deselect, .finish (.transportFault s.seq)]
      answers := s.answers.tail
      drawn := if s.answers.isEmpty then s.drawn + 1 else s.drawn
      trace := s.trace ++ [.word w] } := by
  simp [memWrite, h, emit, takeAnswer]

@[simp] theorem wordNext_word (w : ChannelWord) (t : List Action) : wordNext (.word w :: t) = true := rfl

@[simp] theorem wordNext_deselect (t : List Action) : wordNext (.deselect :: t) = false := rfl

/-! ### The precondition of a command (R206) -/

theorem whenBegun_of_begun {s : State} (h : s.begun = true) (body : State) : whenBegun s body = .next body := by
  simp [whenBegun, h]

theorem whenBegun_of_not_begun {s : State} (h : s.begun = false) (body : State) :
    whenBegun s body = .fault .lifecycleViolation := by
  simp [whenBegun, h]

theorem whenBegun_next {s body t : State} (h : whenBegun s body = .next t) : s.begun = true ∧ t = body := by
  unfold whenBegun at h
  split at h
  · exact ⟨‹_›, by injection h with h; exact h.symm⟩
  · cases h

/-! ### Bodies of the setters (R140, R150, R166, R131) -/

/-- Only the seven fields and the shape table enter the control image (R110). -/
theorem ctrl_congr {s t : State} (hcfg : s.cfg.shapeBits = t.cfg.shapeBits)
    (hwave : s.wave.get s.afc = t.wave.get t.afc) (hafc : s.afc = t.afc) (hapc : s.apc = t.apc) (hoe : s.oe = t.oe)
    (hclk : s.clkdis = t.clkdis) (hdac : s.dacdis = t.dacdis) : ctrl s = ctrl t := by
  unfold ctrl
  rw [hwave, hcfg, hafc, hapc, hoe, hclk, hdac]

theorem setFreqBody_eq (ch : Chan) (x : XReal) (s : State) :
    setFreqBody ch x s = { s with
      freq := s.freq.set ch (rnd32 (clampF s.cfg x : Int))
      seq := 1
      todo := .word (ctrl s) :: .word (freqLow s.refclk ch (clampF s.cfg x)) ::
        .word (freqHigh s.refclk ch (clampF s.cfg x)) :: .deselect :: s.todo
      trace := s.trace ++ [.sel true] } := rfl

theorem setPhaseBody_eq (ch : Chan) (x : Int) (s : State) :
    setPhaseBody ch x s = { s with
      phase := s.phase.set ch (normP x)
      seq := 1
      todo := .word (pword ch (normP x)) :: .deselect :: s.todo
      trace := s.trace ++ [.sel true] } := rfl

theorem writeCtrl_eq (s : State) :
    writeCtrl s = { s with
      seq := 1
      todo := .word (ctrl s) :: .deselect :: s.todo
      trace := s.trace ++ [.sel true] } := rfl

theorem resetBody_eq (s : State) :
    resetBody s = { s with
      seq := 1
      todo := .word s.cfg.resetWord :: .deselect :: .delay s.cfg.resetSettleMs :: s.todo
      trace := s.trace ++ [.sel true] } := rfl

/-! ### Hardware reset (R130) -/

theorem construct_refused (s : State) : construct 0 s = .refused .illegalRefclk := rfl

theorem construct_next {refclk : BitVec 32} {s t : State} (h : construct refclk s = .next t) :
    refclk ≠ 0 ∧ t.refclk = refclk ∧ t.cfg = s.cfg ∧ t.freq = ⟨s.cfg.defaultFreqHz, s.cfg.defaultFreqHz⟩ ∧
      t.phase = ⟨0, 0⟩ ∧ t.wave = ⟨.sine, .sine⟩ ∧ t.afc = .ch0 ∧ t.apc = .ch0 ∧ t.oe = false ∧ t.dacdis = false ∧
      t.clkdis = false ∧ t.begun = false ∧ t.seq = 0 ∧ t.todo = [] ∧ t.inputs = s.inputs ∧ t.answers = s.answers ∧ t.drawn = s.drawn ∧
      t.trace = s.trace ++ [.sel false] ∧ t.responses = s.responses := by
  unfold construct at h
  split at h
  · cases h
  · next hr =>
    injection h with h
    subst h
    exact ⟨hr, rfl, rfl, rfl, rfl, rfl, rfl, rfl, rfl, rfl, rfl, rfl, rfl, rfl, rfl, rfl, rfl, rfl, rfl⟩

/-! ### The sequencer -/

/-- The emitted word that the decoder reads from `w` is executed as the write of `w` itself. -/
theorem exec_decodeChannel {w : ChannelWord} {i : Instr} (hi : decodeChannel w = .ok i) (s : State) :
    exec i s = .next (memWrite w s) := by
  unfold decodeChannel at hi
  split at hi
  · injection hi with hi
    subst hi
    rw [exec, execWFreqCh0, freqWord_extract .ch0 ‹_›]
  split at hi
  · injection hi with hi
    subst hi
    rw [exec, execWFreqCh1, freqWord_extract .ch1 ‹_›]
  split at hi
  · injection hi with hi
    subst hi
    rw [exec, execWPhaseCh0, phaseWord_extract .ch0 ‹_›]
  split at hi
  · injection hi with hi
    subst hi
    rw [exec, execWPhaseCh1, phaseWord_extract .ch1 ‹_›]
  split at hi
  · injection hi with hi
    subst hi
    rw [exec, execWReset, ‹w = _›]
  split at hi
  · next h =>
    injection hi with hi
    subst hi
    rw [exec, execWCtrl, ctrlWord_extract h.1]
  · cases hi

/-- Whatever word stands next in a frame, its step is the write of that very word. -/
theorem sendWord_eq (w : ChannelWord) (s : State) : sendWord w s = .next (memWrite w s) := by
  unfold sendWord
  split
  · next i hi => exact exec_decodeChannel hi s
  · rfl

@[simp] theorem perform_word (w : ChannelWord) (s : State) : perform (.word w) s = .next (memWrite w s) := sendWord_eq w s

@[simp] theorem perform_deselect (s : State) : perform .deselect s = .next (emit (.sel false) s) := rfl

@[simp] theorem perform_delay (ms : BitVec 32) (s : State) : perform (.delay ms) s = .next (emit (.delay ms) s) := rfl

@[simp] theorem perform_setPhase (ch : Chan) (x : Int) (s : State) :
    perform (.setPhase ch x) s = .next (setPhaseBody ch x s) := rfl

@[simp] theorem perform_setWave (ch : Chan) (shape : Shape) (s : State) :
    perform (.setWave ch shape) s = .next (setWaveBody ch shape s) := rfl

@[simp] theorem perform_setSrc (fch pch : Chan) (s : State) :
    perform (.setSrc fch pch) s = .next (setSrcBody fch pch s) := rfl

@[simp] theorem perform_finish (e : Ending) (s : State) : perform (.finish e) s = .next (finish e s) := rfl

/-- The state after one action of the running operation. -/
def performed (a : Action) (s : State) : State :=
  match a with
  | .word w => memWrite w s
  | .deselect => emit (.sel false) s
  | .delay ms => emit (.delay ms) s
  | .setPhase ch x => setPhaseBody ch x s
  | .setWave ch shape => setWaveBody ch shape s
  | .setSrc fch pch => setSrcBody fch pch s
  | .finish e => finish e s

/-- No action stops the machine. -/
theorem perform_eq (a : Action) (s : State) : perform a s = .next (performed a s) := by
  cases a <;> simp [performed]

theorem advance_idle {s : State} (h : s.todo = []) : advance s = .next s := by
  simp [advance, h]

theorem advance_cons {s : State} {a : Action} {rest : List Action} (h : s.todo = a :: rest) :
    advance s = .next (performed a { s with todo := rest }) := by
  simp [advance, h, perform_eq]

/-! ### One step -/

theorem step_quiet {s : State} (h : s.inputs = []) : step s = advance s := by
  simp [step, react, h]

theorem step_wait {s : State} {rest : List Input} (h : s.inputs = .wait :: rest) :
    step s = advance { s with inputs := rest } := by
  simp [step, react, h]

theorem step_hardReset {s : State} {refclk : BitVec 32} {rest : List Input} (h : s.inputs = .hardReset refclk :: rest) :
    step s = construct refclk { s with inputs := rest } := by
  simp [step, react, h]

theorem step_command_idle {s : State} {w : CommandWord} {rest : List Input} (h : s.inputs = .command w :: rest)
    (hs : s.seq = 0) : step s = accept w { s with inputs := rest } := by
  simp [step, react, h, hs]

theorem step_command_busy {s : State} {w : CommandWord} {rest : List Input} (h : s.inputs = .command w :: rest)
    (hs : s.seq ≠ 0) : step s = advance s := by
  rw [step, react]
  simp only [h]
  rw [if_neg hs]

theorem accept_ok {w : CommandWord} {i : Instr} (h : decode (.command w) = .ok i) (s : State) : accept w s = exec i s := by
  simp [accept, h]

theorem accept_error {w : CommandWord} {e : Reject} (h : decode (.command w) = .error e) (s : State) :
    accept w s = .next (finish .illegalCommand s) := by
  simp [accept, h]

/-- Every next state of a step comes from a reset, a command accepted, an illegal command, or the running operation. -/
theorem step_cases {s t : State} (h : step s = .next t) :
    (∃ refclk rest, s.inputs = .hardReset refclk :: rest ∧ refclk ≠ 0 ∧
      construct refclk { s with inputs := rest } = .next t) ∨
    (∃ w rest i, s.inputs = .command w :: rest ∧ s.seq = 0 ∧ decode (.command w) = .ok i ∧
      exec i { s with inputs := rest } = .next t) ∨
    (∃ w rest e, s.inputs = .command w :: rest ∧ s.seq = 0 ∧ decode (.command w) = .error e ∧
      t = finish .illegalCommand { s with inputs := rest }) ∨
    (∃ inputs, (inputs = s.inputs ∨ s.inputs = .wait :: inputs) ∧ advance { s with inputs := inputs } = .next t) := by
  cases hi : s.inputs with
  | nil => exact .inr (.inr (.inr ⟨[], by simp, by rw [step_quiet hi] at h; rw [← hi]; exact h⟩))
  | cons a rest =>
    cases a with
    | wait => exact .inr (.inr (.inr ⟨rest, by simp, by rw [step_wait hi] at h; exact h⟩))
    | hardReset refclk =>
      rw [step_hardReset hi] at h
      refine .inl ⟨refclk, rest, by simp, ?_, h⟩
      rintro rfl
      simp [construct] at h
    | command w =>
      by_cases hs : s.seq = 0
      · rw [step_command_idle hi hs] at h
        cases hd : decode (.command w) with
        | ok i => exact .inr (.inl ⟨w, rest, i, by simp, hs, hd, by rw [accept_ok hd] at h; exact h⟩)
        | error e =>
          rw [accept_error hd] at h
          injection h with h
          exact .inr (.inr (.inl ⟨w, rest, e, by simp, hs, hd, h.symm⟩))
      · refine .inr (.inr (.inr ⟨s.inputs, by simp [hi], ?_⟩))
        rw [step_command_busy hi hs] at h
        exact h

end Sys2Proof.Machine
end

