-- ==== Sys2Proof/Laws/PerInstr.lean ====
section
/-! SUPPORT. One lemma per instruction: its code word lies in the mask and match of its row of the opcode table, and has the
row's width. -/

namespace Sys2Proof.Laws

/-- A row of the opcode table: the width in bits, the mask and the match. -/
structure Row where
  width : Nat
  mask : Nat
  pattern : Nat
deriving DecidableEq, Repr

/-- A row of R82: 80 bits, mask bits 79:69, match `OP << 72`. -/
def commandRow (op : Nat) : Row := ⟨80, 0xFFE00000000000000000, op * 2 ^ 72⟩

/-- The row of each instruction, from R82 and R76. -/
def rowOf : Instr → Row
  | .begin => commandRow 0x00
  | .reset => commandRow 0x01
  | .setfreq _ _ => commandRow 0x02
  | .incfreq _ _ => commandRow 0x03
  | .setphase _ _ => commandRow 0x04
  | .incphase _ _ => commandRow 0x05
  | .setwave _ _ => commandRow 0x06
  | .setsrc _ _ => commandRow 0x07
  | .enout _ => commandRow 0x08
  | .sleep _ => commandRow 0x09
  | .dacoff _ => commandRow 0x0A
  | .clkoff _ => commandRow 0x0B
  | .apply _ _ _ _ _ => commandRow 0x0C
  | .getfreq _ => commandRow 0x0D
  | .getphase _ => commandRow 0x0E
  | .getres => commandRow 0x0F
  | .wFreqCh0 _ => ⟨16, 0xC000, 0x4000⟩
  | .wFreqCh1 _ => ⟨16, 0xC000, 0x8000⟩
  | .wPhaseCh0 _ => ⟨16, 0xF000, 0xC000⟩
  | .wPhaseCh1 _ => ⟨16, 0xF000, 0xE000⟩
  | .wCtrl _ _ _ _ _ _ => ⟨16, 0xF215, 0x2000⟩
  | .wReset => ⟨16, 0xFFFF, 0x0100⟩

/-- A code word matches a row: it has the row's width, and its masked bits are the row's match. -/
def Row.takes (r : Row) : Code → Prop
  | .command w => r.width = 80 ∧ w &&& BitVec.ofNat 80 r.mask = BitVec.ofNat 80 r.pattern
  | .channel w => r.width = 16 ∧ w &&& BitVec.ofNat 16 r.mask = BitVec.ofNat 16 r.pattern

/-- The code word of the instruction matches the instruction's own row. -/
def MatchesRow.Statement (i : Instr) : Prop := (rowOf i).takes (encode i)

/-- Bits 79:69 of a packed command are its `OP` above three zeros. -/
theorem packCommand_masked (op : BitVec 8) (en : Bool) (shape : BitVec 2) (ch2 ch : Bool) (a b : B32) :
    packCommand op en shape ch2 ch a b &&& 0xFFE00000000000000000 = op ++ 0#72 := by
  apply BitVec.eq_of_getLsbD_eq
  intro i hi
  rcases (by omega : i < 69 ∨ 69 ≤ i) with h | h
  · have hm : (0xFFE00000000000000000 : BitVec 80).getLsbD i = false := by interval_cases i <;> rfl
    rw [BitVec.getLsbD_and, hm, Bool.and_false, BitVec.getLsbD_append]
    simp [show i < 72 by omega]
  · simp only [packCommand, BitVec.getLsbD_and, BitVec.getLsbD_append]
    interval_cases i <;> simp

/-- A packed command matches the row of its `OP`. -/
theorem takes_packCommand (op : BitVec 8) (n : Nat) (h : op ++ 0#72 = BitVec.ofNat 80 (n * 2 ^ 72)) (en : Bool)
    (shape : BitVec 2) (ch2 ch : Bool) (a b : B32) :
    (commandRow n).takes (.command (packCommand op en shape ch2 ch a b)) :=
  ⟨rfl, (packCommand_masked op en shape ch2 ch a b).trans h⟩

namespace MatchesRow

theorem begin : Statement .begin := takes_packCommand 0x00 0x00 (by decide) _ _ _ _ _ _

theorem reset : Statement .reset := takes_packCommand 0x01 0x01 (by decide) _ _ _ _ _ _

theorem setfreq (ch : Chan) (a : B32) : Statement (.setfreq ch a) := takes_packCommand 0x02 0x02 (by decide) _ _ _ _ _ _

theorem incfreq (ch : Chan) (a : B32) : Statement (.incfreq ch a) := takes_packCommand 0x03 0x03 (by decide) _ _ _ _ _ _

theorem setphase (ch : Chan) (a : B32) : Statement (.setphase ch a) := takes_packCommand 0x04 0x04 (by decide) _ _ _ _ _ _

theorem incphase (ch : Chan) (a : B32) : Statement (.incphase ch a) := takes_packCommand 0x05 0x05 (by decide) _ _ _ _ _ _

theorem setwave (ch : Chan) (shape : Shape) : Statement (.setwave ch shape) :=
  takes_packCommand 0x06 0x06 (by decide) _ _ _ _ _ _

theorem setsrc (fch : Chan) (pch : Chan) : Statement (.setsrc fch pch) := takes_packCommand 0x07 0x07 (by decide) _ _ _ _ _ _

theorem enout (en : Bool) : Statement (.enout en) := takes_packCommand 0x08 0x08 (by decide) _ _ _ _ _ _

theorem sleep (en : Bool) : Statement (.sleep en) := takes_packCommand 0x09 0x09 (by decide) _ _ _ _ _ _

theorem dacoff (en : Bool) : Statement (.dacoff en) := takes_packCommand 0x0A 0x0A (by decide) _ _ _ _ _ _

theorem clkoff (en : Bool) : Statement (.clkoff en) := takes_packCommand 0x0B 0x0B (by decide) _ _ _ _ _ _

theorem apply (shape : Shape) (fch : Chan) (a : B32) (pch : Chan) (b : B32) : Statement (.apply shape fch a pch b) :=
  takes_packCommand 0x0C 0x0C (by decide) _ _ _ _ _ _

theorem getfreq (ch : Chan) : Statement (.getfreq ch) := takes_packCommand 0x0D 0x0D (by decide) _ _ _ _ _ _

theorem getphase (ch : Chan) : Statement (.getphase ch) := takes_packCommand 0x0E 0x0E (by decide) _ _ _ _ _ _

theorem getres : Statement .getres := takes_packCommand 0x0F 0x0F (by decide) _ _ _ _ _ _

theorem wFreqCh0 (half : BitVec 14) : Statement (.wFreqCh0 half) := by
  refine ⟨rfl, BitVec.eq_of_getLsbD_eq fun i hi => ?_⟩
  simp only [rowOf]
  interval_cases i <;> simp [freqWord, ftag]

theorem wFreqCh1 (half : BitVec 14) : Statement (.wFreqCh1 half) := by
  refine ⟨rfl, BitVec.eq_of_getLsbD_eq fun i hi => ?_⟩
  simp only [rowOf]
  interval_cases i <;> simp [freqWord, ftag]

theorem wPhaseCh0 (pw : BitVec 12) : Statement (.wPhaseCh0 pw) := by
  refine ⟨rfl, BitVec.eq_of_getLsbD_eq fun i hi => ?_⟩
  simp only [rowOf]
  interval_cases i <;> simp [phaseWord, Chan.toBit]

theorem wPhaseCh1 (pw : BitVec 12) : Statement (.wPhaseCh1 pw) := by
  refine ⟨rfl, BitVec.eq_of_getLsbD_eq fun i hi => ?_⟩
  simp only [rowOf]
  interval_cases i <;> simp [phaseWord, Chan.toBit]

theorem wCtrl (fsel psel : Chan) (rst clkd dacd : Bool) (shape : BitVec 3) :
    Statement (.wCtrl fsel psel rst clkd dacd shape) := by
  refine ⟨rfl, BitVec.eq_of_getLsbD_eq fun i hi => ?_⟩
  simp only [rowOf]
  interval_cases i <;> simp [ctrlWord, shapeMask]

theorem wReset : Statement .wReset := ⟨rfl, rfl⟩

end MatchesRow

end Sys2Proof.Laws
end

