-- ==== Sys2Proof/Laws/Runs.lean ====
section
/-! SUPPORT. Runs of a block whose host drives nothing: what each step is, that no step of the running operation stops, and what
one action leaves alone. -/

namespace Sys2Proof.Machine

theorem runSteps_zero (s : State) : runSteps 0 s = .next s := rfl

/-- A run of `n + 1` steps whose first step has a next state is the run of `n` steps from there. -/
theorem runSteps_succ {s t : State} (n : Nat) (h : step s = .next t) : runSteps (n + 1) s = runSteps n t := by
  show Host.Core.run Sys2Proof.core (n + 1) s = Host.Core.run Sys2Proof.core n t
  have h' : Sys2Proof.core.step s = .next t := h
  simp only [Host.Core.run, h']

/-- The state after one step of a block whose host drives nothing. -/
def advanced (s : State) : State :=
  match s.todo with
  | [] => s
  | a :: rest => performed a { s with todo := rest }

theorem advance_eq (s : State) : advance s = .next (advanced s) := by
  cases h : s.todo with
  | nil => simp only [advance, advanced, h]
  | cons a rest => simp only [advance, advanced, h, perform_eq]

theorem step_quiet_eq {s : State} (h : s.inputs = []) : step s = .next (advanced s) := by
  rw [step_quiet h, advance_eq]

/-! ### What one action leaves alone -/

@[simp] theorem performed_inputs (a : Action) (s : State) : (performed a s).inputs = s.inputs := by
  cases a <;> simp [performed, setPhaseBody_eq, setWaveBody, setSrcBody, writeCtrl_eq]

@[simp] theorem performed_freq (a : Action) (s : State) : (performed a s).freq = s.freq := by
  cases a <;> simp [performed, setPhaseBody_eq, setWaveBody, setSrcBody, writeCtrl_eq]

@[simp] theorem performed_oe (a : Action) (s : State) : (performed a s).oe = s.oe := by
  cases a <;> simp [performed, setPhaseBody_eq, setWaveBody, setSrcBody, writeCtrl_eq]

@[simp] theorem performed_dacdis (a : Action) (s : State) : (performed a s).dacdis = s.dacdis := by
  cases a <;> simp [performed, setPhaseBody_eq, setWaveBody, setSrcBody, writeCtrl_eq]

@[simp] theorem performed_clkdis (a : Action) (s : State) : (performed a s).clkdis = s.clkdis := by
  cases a <;> simp [performed, setPhaseBody_eq, setWaveBody, setSrcBody, writeCtrl_eq]

@[simp] theorem performed_begun (a : Action) (s : State) : (performed a s).begun = s.begun := by
  cases a <;> simp [performed, setPhaseBody_eq, setWaveBody, setSrcBody, writeCtrl_eq]

@[simp] theorem performed_refclk (a : Action) (s : State) : (performed a s).refclk = s.refclk := by
  cases a <;> simp [performed, setPhaseBody_eq, setWaveBody, setSrcBody, writeCtrl_eq]

@[simp] theorem performed_cfg (a : Action) (s : State) : (performed a s).cfg = s.cfg := by
  cases a <;> simp [performed, setPhaseBody_eq, setWaveBody, setSrcBody, writeCtrl_eq]

@[simp] theorem advanced_inputs (s : State) : (advanced s).inputs = s.inputs := by
  unfold advanced
  split <;> simp

/-- A block whose host drives nothing runs on for any number of steps. -/
theorem runSteps_quiet {s : State} (h : s.inputs = []) (n : Nat) : ∃ u, runSteps n s = .next u ∧ u.inputs = [] := by
  induction n generalizing s with
  | zero => exact ⟨s, rfl, h⟩
  | succ n ih =>
    rw [runSteps_succ n (step_quiet_eq h)]
    exact ih (by simpa using h)

/-- An idle block whose host drives nothing stays as it is. -/
theorem runSteps_idle {s : State} (h : s.inputs = []) (ht : s.todo = []) (n : Nat) : runSteps n s = .next s := by
  induction n with
  | zero => rfl
  | succ n ih =>
    rw [runSteps_succ n (by rw [step_quiet h, advance_idle ht]), ih]

end Sys2Proof.Machine
end

