-- ==== Sys2Proof/Tests/Slice0.lean ====
section
/-! SUPPORT. Tests with expected results from the spec's own vectors (95_test_vectors.md), the smoke tests of `wellFormed`, and a
witness for the hypotheses of every statement that has some. -/

namespace Sys2Proof.Tests

open Sys2Proof.Machine

/-! ### Smoke tests of `wellFormed`: the four shape patterns R74 says are never emitted -/

theorem test_wellFormed_refuses_pattern_0x0008 : (Instr.wCtrl .ch0 .ch0 false false false 0b010).wellFormed = false := by decide
theorem test_wellFormed_refuses_pattern_0x000A : (Instr.wCtrl .ch0 .ch0 false false false 0b011).wellFormed = false := by decide
theorem test_wellFormed_refuses_pattern_0x0022 : (Instr.wCtrl .ch0 .ch0 false false false 0b101).wellFormed = false := by decide
theorem test_wellFormed_refuses_pattern_0x002A : (Instr.wCtrl .ch0 .ch0 false false false 0b111).wellFormed = false := by decide
theorem test_wellFormed_takes_square : (Instr.wCtrl .ch0 .ch0 false false false 0b110).wellFormed = true := by decide

/-! ### Decoding: one word per row, written out from R80, R82 and R71 to R75 -/

theorem test_decode_begin : decodeTableWord 80 0x00000000000000000000 = some .begin := by decide
theorem test_decode_reset : decodeTableWord 80 0x01000000000000000000 = some .reset := by decide
theorem test_decode_setfreq : decodeTableWord 80 0x0200447A000000000000 = some (.setfreq .ch0 0x447A0000) := by decide
theorem test_decode_setfreq_ignores_unused : decodeTableWord 80 0x021E447A0000DEADBEEF = some (.setfreq .ch0 0x447A0000) := by
  decide
theorem test_decode_incfreq : decodeTableWord 80 0x0301C4FA000000000000 = some (.incfreq .ch1 0xC4FA0000) := by decide
theorem test_decode_setphase : decodeTableWord 80 0x040143AF000000000000 = some (.setphase .ch1 0x43AF0000) := by decide
theorem test_decode_incphase : decodeTableWord 80 0x050141A0000000000000 = some (.incphase .ch1 0x41A00000) := by decide
theorem test_decode_setwave : decodeTableWord 80 0x060C0000000000000000 = some (.setwave .ch0 .halfSquare) := by decide
theorem test_decode_setsrc : decodeTableWord 80 0x07020000000000000000 = some (.setsrc .ch0 .ch1) := by decide
theorem test_decode_enout : decodeTableWord 80 0x08100000000000000000 = some (.enout true) := by decide
theorem test_decode_sleep : decodeTableWord 80 0x09100000000000000000 = some (.sleep true) := by decide
theorem test_decode_dacoff : decodeTableWord 80 0x0A000000000000000000 = some (.dacoff false) := by decide
theorem test_decode_clkoff : decodeTableWord 80 0x0B100000000000000000 = some (.clkoff true) := by decide
theorem test_decode_apply :
    decodeTableWord 80 0x0C0743DC000042B40000 = some (.apply .triangle .ch1 0x43DC0000 .ch1 0x42B40000) := by decide
theorem test_decode_getfreq : decodeTableWord 80 0x0D010000000000000000 = some (.getfreq .ch1) := by decide
theorem test_decode_getphase : decodeTableWord 80 0x0E010000000000000000 = some (.getphase .ch1) := by decide
theorem test_decode_getres : decodeTableWord 80 0x0F000000000000000000 = some .getres := by decide
theorem test_decode_reserved_op : decode (.command 0x10000000000000000000) = .error .reservedOp := by decide
theorem test_decode_reserved_field : decode (.command 0x0220447A000000000000) = .error .reservedField := by decide
theorem test_decode_w_freq_ch0 : decodeTableWord 16 0x69F1 = some (.wFreqCh0 0x29F1) := by decide
theorem test_decode_w_freq_ch1 : decodeTableWord 16 0xBFFF = some (.wFreqCh1 0x3FFF) := by decide
theorem test_decode_w_phase_ch0 : decodeTableWord 16 0xC072 = some (.wPhaseCh0 0x072) := by decide
theorem test_decode_w_phase_ch1 : decodeTableWord 16 0xEF8E = some (.wPhaseCh1 0xF8E) := by decide
theorem test_decode_w_ctrl : decodeTableWord 16 0x2DE8 = some (.wCtrl .ch1 .ch1 true true true 0b110) := by decide
theorem test_decode_w_reset : decodeTableWord 16 0x0100 = some .wReset := by decide
theorem test_decode_never_emitted :
    [0xD000, 0xF123, 0x0000, 0x0128, 0x2008, 0x200A, 0x2022, 0x202A, 0x3000, 0x2200, 0x2001].all
      (fun w => decodeTableWord 16 w == none) = true := by decide
theorem test_destination : [0x69F1, 0x828F, 0xC072, 0xEF8E, 0x2100].map (fun w => destination (BitVec.ofNat 16 w)) =
    [.freq0, .freq1, .phase0, .phase1, .ctrl] := by decide
theorem test_wire_s8 : serialBytes (frameEvents [0x2100, 0x69F1, 0x4000]) = [0x21, 0x00, 0x69, 0xF1, 0x40, 0x00] := by decide
theorem test_assemble_p1 :
    (AsmLine.apply .sine .zero (.decimal 1000 0) none).code = .command 0x0C00447A000000000000 := by decide
theorem test_assemble_decimal : (Literal.decimal 123456 3).bits = 0x42F6E979 := by decide

/-! ### One step of each instruction, from the vectors of Part 2 -/

/-- After boot (95_test_vectors.md, conventions), six answers given. -/
def booted : State := { State.reset with begun := true, answers := List.replicate 6 .ok }

/-- The words about to be sent after one instruction. -/
def wordsAfter (r : Result) : List ChannelWord :=
  match r with
  | .next t => pendingWords t.todo
  | .fault _ => []
  | .refused _ => []

/-- The last response after one instruction. -/
def answerAfter (r : Result) : Option Response :=
  match r with
  | .next t => t.responses.getLast?
  | .fault _ => none
  | .refused _ => none

/-- One register after one instruction. -/
def registerAfter {α : Type} (f : State → α) (r : Result) : Option α :=
  match r with
  | .next t => some (f t)
  | .fault _ => none
  | .refused _ => none

theorem test_begin_V2 : wordsAfter (exec .begin State.reset) = [0x0100] := by decide
theorem test_begin_sets_begun : registerAfter (·.begun) (exec .begin State.reset) = some true := by decide
theorem test_begin_twice_V8 : exec .begin booted = .fault .lifecycleViolation := rfl
theorem test_reset_V4 : wordsAfter (exec .reset { booted with oe := true }) = [0x0100] := by decide
theorem test_setfreq_V11 : wordsAfter (exec (.setfreq .ch1 0x43DC0000) booted) = [0x2100, 0x9274, 0x8000] := by decide
theorem test_setfreq_V22 :
    wordsAfter (exec (.setfreq .ch0 0x4B3EBC20) { booted with refclk := 10000000 }) = [0x2100, 0x4000, 0x5000] := by decide
theorem test_setfreq_before_begin_V7 : exec (.setfreq .ch0 0x447A0000) State.reset = .fault .lifecycleViolation := rfl
theorem test_incfreq_V32 :
    registerAfter (·.freq.c0) (exec (.incfreq .ch0 0xBE800000) { booted with freq := ⟨0x4B3EBC20, 0⟩ }) =
      some 0x4B3EBC20 := by decide
theorem test_incfreq_V31 : registerAfter (·.freq.c0) (exec (.incfreq .ch0 0xC4FA0000) booted) = some 0x00000000 := by decide
theorem test_setphase_V53 : registerAfter (·.phase.c0) (exec (.setphase .ch0 0xBF000000) booted) = some 0x43B3C000 := by decide
theorem test_setphase_V54 : wordsAfter (exec (.setphase .ch0 0x501502F9) booted) = [0xCC72] := by decide
theorem test_incphase_V62 :
    registerAfter (·.phase.c1) (exec (.incphase .ch1 0xC1F00000) { booted with phase := ⟨0, 0x41200000⟩ }) =
      some 0x43AA0000 := by decide
theorem test_incphase_V65 :
    wordsAfter (exec (.incphase .ch0 0x38000000) { booted with phase := ⟨0x43B3FFFF, 0⟩ }) = [0xC000] := by decide
theorem test_setwave_V71 :
    wordsAfter (exec (.setwave .ch1 .square) { booted with wave := ⟨.triangle, .sine⟩ }) = [0x2102] := by decide
theorem test_setsrc_V72 :
    wordsAfter (exec (.setsrc .ch1 .ch0) { booted with wave := ⟨.triangle, .square⟩ }) = [0x2928] := by decide
theorem test_enout_V75 : wordsAfter (exec (.enout true) booted) = [0x2000] := by decide
theorem test_sleep_V76 : wordsAfter (exec (.sleep true) { booted with oe := true }) = [0x20C0] := by decide
theorem test_dacoff_V77 :
    wordsAfter (exec (.dacoff false) { booted with oe := true, dacdis := true, clkdis := true }) = [0x2080] := by decide
theorem test_clkoff_V82 : wordsAfter (exec (.clkoff true) booted) = [0x2180] := by decide
theorem test_apply_V92_first_frame :
    wordsAfter (exec (.apply .square .ch1 0x7F800000 .ch0 0x43B40000) booted) = [0x2100, 0x8000, 0xA000] := by decide
theorem test_apply_V93 :
    answerAfter (exec (.apply .square .ch1 0x447A0000 .ch1 0x7FC00001) booted) = some ⟨.badArgument, 0⟩ := by decide
theorem test_getfreq_V100 : answerAfter (exec (.getfreq .ch0) booted) = some ⟨.ok, 0x4479FD82⟩ := by decide
theorem test_getphase_V103 :
    answerAfter (exec (.getphase .ch1) { booted with phase := ⟨0, 0x41200000⟩ }) = some ⟨.ok, 0x41205000⟩ := by decide
theorem test_getres_V107 :
    answerAfter (exec .getres { booted with refclk := 4294967295 }) = some ⟨.ok, 0x41800000⟩ := by decide
theorem test_illegal_before_begin_V119 :
    answerAfter (step (State.reset.withFetchWord 80 0x10000000000000000000)) = some ⟨.illegalCommand, 0⟩ := by decide
theorem test_construct_zero_V6 : construct 0 State.reset = .refused .illegalRefclk := rfl

/-- A frame in progress: the first word of V120 has been answered `Ok` and the second is answered `Fault`. -/
def secondWordFails : State :=
  { booted with seq := 2, todo := [.word 0x53E3, .word 0x4001, .deselect, .finish (.ok 0)], answers := [.fault] }

theorem test_word_fault_V120 :
    registerAfter (·.todo) (exec (.wFreqCh0 0x13E3) secondWordFails) = some [.deselect, .finish (.transportFault 2)] := by decide
theorem test_w_freq_ch1_event :
    registerAfter (·.trace) (exec (.wFreqCh1 0x028F) booted) = some [.sel false, .word 0x828F] := by decide
theorem test_w_phase_ch0_event :
    registerAfter (·.trace) (exec (.wPhaseCh0 0x072) booted) = some [.sel false, .word 0xC072] := by decide
theorem test_w_phase_ch1_event :
    registerAfter (·.trace) (exec (.wPhaseCh1 0xF8E) booted) = some [.sel false, .word 0xEF8E] := by decide
theorem test_w_ctrl_event :
    registerAfter (·.trace) (exec (.wCtrl .ch1 .ch0 true false false 0b110) booted) = some [.sel false, .word 0x2928] := by decide
theorem test_w_reset_event :
    registerAfter (·.trace) (exec .wReset booted) = some [.sel false, .word 0x0100] := by decide

/-! ### Witnesses: a state and operands that meet all hypotheses of each statement that has some -/

/-- The default parameters are legal (R7). -/
theorem witness_configLegal : ConfigLegal Config.default := by
  refine ⟨by decide, by decide, ?_, ?_, by decide, by decide, by decide, by decide⟩
  · intro s t
    cases s <;> cases t <;> decide
  · intro s
    cases s <;> decide

theorem witness_registersOk : RegistersOk booted where
  cfg := witness_configLegal
  refclk := by decide
  freq := by intro ch; cases ch <;> decide
  phase := by intro ch; cases ch <;> decide

theorem witness_DecodeEncodeGivesInstructionBack :
    (Instr.wCtrl .ch1 .ch0 true false false 0b110).wellFormed = true := by decide

theorem witness_ChannelWordDecodesToItself : decode (.channel 0xE800) = .ok (.wPhaseCh1 0x800) := by decide

theorem witness_CommandDecodingIsTotal :
    (((0x0FFFFFFFFFFFFFFFFFFF &&& 0xFF1FFFFFFFFFFFFFFFFF : CommandWord).extractLsb' 72 8).toNat < 16 ∧
      (0x0FFFFFFFFFFFFFFFFFFF &&& 0xFF1FFFFFFFFFFFFFFFFF : CommandWord).extractLsb' 69 3 = 0) ∧
    16 ≤ ((0x10000000000000000000 : CommandWord).extractLsb' 72 8).toNat ∧
    (0x00200000000000000000 : CommandWord).extractLsb' 69 3 ≠ 0 := by decide

/-- An idle block with a legal command at its port. -/
def atThePort : State := { booted with inputs := [.command 0x0F000000000000000000] }

theorem witness_StepRunsTheDecodedInstruction_command :
    atThePort.seq = 0 ∧ atThePort.inputs = [.command 0x0F000000000000000000] ∧
    decode (.command 0x0F000000000000000000) = .ok .getres := by decide

theorem witness_StepRunsTheDecodedInstruction_word :
    secondWordFails.todo = .word 0x53E3 :: secondWordFails.todo.tail ∧ decode (.channel 0x53E3) = .ok (.wFreqCh0 0x13E3) ∧
    secondWordFails.inputs = [] ∧ ({ secondWordFails with inputs := [.wait] } : State).inputs = [.wait] ∧
    ({ secondWordFails with inputs := [.command 0] } : State).inputs = [.command 0] ∧ secondWordFails.seq ≠ 0 := by decide

theorem witness_BusyBlockLeavesTheCommandAtThePort :
    ({ secondWordFails with inputs := [.command 0] } : State).inputs = [.command 0] ∧ secondWordFails.seq ≠ 0 := by decide

theorem witness_IllegalCommandHasNoEffectButItsResponse :
    ({ State.reset with inputs := [.command 0x10000000000000000000] } : State).seq = 0 ∧
    (16 ≤ ((0x10000000000000000000 : CommandWord).extractLsb' 72 8).toNat) ∧
    (0x00200000000000000000 : CommandWord).extractLsb' 69 3 ≠ 0 := by decide

theorem witness_LifecycleViolationStopsAndNothingElseDoes :
    (isCommand (.getfreq .ch0) = true ∧ Instr.getfreq .ch0 ≠ .begin ∧ State.reset.begun = false) ∧ booted.begun = true := by
  decide

theorem witness_HardwareResetFromAnyState :
    ({ secondWordFails with inputs := [.hardReset 1] } : State).inputs = [.hardReset 1] ∧ (1 : BitVec 32) ≠ 0 ∧
    ({ secondWordFails with inputs := [.hardReset 0] } : State).inputs = [.hardReset 0] ∧
    secondWordFails.cfg = Config.default := by decide

/-- The largest magnitude that rounds to a finite pattern, and the least that overflows (R11). -/
theorem witness_Rnd32RoundsToNearestEven :
    (0 < 1 ∧ (((2 ^ 128 - 2 ^ 103) * unit * 1 - 1 : Nat) : Int).natAbs < (2 ^ 128 - 2 ^ 103) * unit * 1 ∧
      isFinite 0x7F7FFFFF = true) ∧
    (2 ^ 128 - 2 ^ 103) * unit * 1 ≤ (-(((2 ^ 128 - 2 ^ 103) * unit : Nat) : Int)).natAbs := by decide

theorem witness_StoredFrequencyIsTheClampedOperand :
    isNaN 0x7F800000 = false ∧ isInf 0x7F800000 = true ∧ signBit 0x7F800000 = false ∧
    isInf 0xFF800000 = true ∧ signBit 0xFF800000 = true ∧
    isFinite 0x80000001 = true ∧ val 0x80000001 < 0 ∧
    isFinite 0x4B3EBC21 = true ∧ val Config.default.maxFreqHz < val 0x4B3EBC21 ∧
    0 ≤ val 0x4B3EBC20 ∧ val 0x4B3EBC20 ≤ val Config.default.maxFreqHz := by decide

theorem witness_FrequencyWordFormula : (25000000 : BitVec 32) ≠ 0 ∧ 0 ≤ 1000 * unit := by decide

theorem witness_FrequencyWordFitsFrom12500001 :
    (12500001 : BitVec 32) ≠ 0 ∧ 12500000 * unit ≤ maxFreq Config.default := by decide

theorem witness_PhaseWordFormula :
    PhaseOk 0x43B3FA60 ∧ 8191 * (fullTurn : Int) ≤ 8192 * val 0x43B3FA60 := by decide

theorem witness_NormalizedPhaseIsTheRemainder :
    (-30 * (unit : Int)) % (fullTurn : Int) = 330 * (unit : Int) ∧ isFinite 0x501502F9 = true ∧ 0 ≤ val 0x501502F9 := by decide

theorem witness_remainder_is_the_floor_remainder (x : Int) :
    x % (fullTurn : Int) = x - (fullTurn : Int) * ⌊(x : ℚ) / (fullTurn : ℚ)⌋ := by
  rw [Int.emod_def, Rat.floor_intCast_div_natCast]

theorem witness_ResolutionIsTheRoundedQuotient :
    (((25000000 * 2 ^ 121 : Int) : ℚ)) = ((25000000 : BitVec 32).toNat : ℚ) / 2 ^ 28 * (unit : ℚ) := by
  rw [show (25000000 : BitVec 32).toNat = 25000000 from rfl]
  norm_num [unit]

theorem witness_Ready : Ready booted ∧ answersOk 1 booted ∧ answersOk 3 booted ∧ answersOk 6 booted := by decide

theorem witness_FrequencyRoundTrip :
    Ready booted ∧ answersOk 3 booted ∧ booted.cfg.maxFreqHz = 0x4B3EBC20 ∧ 12500001 ≤ booted.refclk.toNat ∧
    isFinite 0x447A0000 = true ∧ 0 ≤ val 0x447A0000 ∧ val 0x447A0000 ≤ val booted.cfg.maxFreqHz := by decide

theorem witness_ControlImageBits : ConfigLegal booted.cfg := witness_configLegal

theorem witness_ControlImageIsInjective :
    ConfigLegal booted.cfg ∧ booted.cfg.shapeBits = State.reset.cfg.shapeBits ∧ ctrl booted = ctrl State.reset :=
  ⟨witness_configLegal, rfl, rfl⟩

theorem witness_LifecycleCommandsComplete :
    State.reset.begun = false ∧ booted.begun = true ∧
    answersOk 1 ({ State.reset with answers := [.ok] } : State) ∧ State.reset.seq = 0 ∧ State.reset.todo = [] ∧
    State.reset.inputs = [] := by decide

theorem witness_SetfreqCompletes : booted.begun = true ∧ isNaN 0x447A0000 = false ∧ Ready booted ∧ answersOk 3 booted := by decide

theorem witness_IncfreqCompletes :
    booted.begun = true ∧ isNaN 0x7F800000 = false ∧ isNaN 0x43FA0000 = false ∧ Ready booted ∧ answersOk 3 booted := by decide

theorem witness_SetphaseCompletes : booted.begun = true ∧ isFinite 0xC1F00000 = true ∧ Ready booted ∧ answersOk 1 booted := by decide

theorem witness_IncphaseCompletes : booted.begun = true ∧ isFinite 0x43B40000 = true ∧ Ready booted ∧ answersOk 1 booted := by decide

theorem witness_ShapeAndSourceCommandsComplete : booted.begun = true ∧ Ready booted ∧ answersOk 1 booted := by decide

theorem witness_FlagCommandsComplete : booted.begun = true ∧ Ready booted ∧ answersOk 1 booted := by decide

theorem witness_ApplyCompletes :
    booted.begun = true ∧ isNaN 0xFF800000 = false ∧ isFinite 0x42B40000 = true ∧ Ready booted ∧ answersOk 6 booted := by decide

theorem witness_ReadbacksComplete : booted.begun = true := by decide

theorem witness_EmittedWordsComplete :
    ({ booted with cfg := { Config.default with transportCanFault := false } } : State).cfg.transportCanFault = false ∧
    booted.answers.head? = some .ok ∧ secondWordFails.answers.head? = some .fault ∧
    secondWordFails.cfg.transportCanFault = true ∧ State.reset.answers = [] ∧
    State.reset.cfg.transportCanFault = true := by decide

theorem witness_BadArgumentTable :
    booted.begun = true ∧ isNaN 0x7F800001 = true ∧ isFinite 0xFF800000 = false ∧ isFinite 0xFFFFFFFF = false := by decide

/-- The answers of a run whose word number `k + 1` fails. -/
def failsAt (k : Nat) : State := { booted with answers := List.replicate k .ok ++ [.fault] }

theorem witness_FrequencyUpdateCutShort :
    (Ready (failsAt 0) ∧ answersFaultAt 0 (failsAt 0)) ∧ (Ready (failsAt 2) ∧ answersFaultAt 2 (failsAt 2)) ∧
    isNaN 0x44FA0000 = false := by decide

theorem witness_OneWordCommandsCutShort :
    (failsAt 0).seq = 0 ∧ (failsAt 0).todo = [] ∧ (failsAt 0).inputs = [] ∧ answersFaultAt 0 (failsAt 0) ∧
    (failsAt 0).begun = true ∧ answersFaultAt 0 { failsAt 0 with begun := false } ∧ isFinite 0x42B40000 = true := by decide

theorem witness_ApplyCutShort :
    (Ready (failsAt 0) ∧ answersFaultAt 0 (failsAt 0)) ∧ (Ready (failsAt 3) ∧ answersFaultAt 3 (failsAt 3)) ∧
    (Ready (failsAt 4) ∧ answersFaultAt 4 (failsAt 4)) ∧ (Ready (failsAt 5) ∧ answersFaultAt 5 (failsAt 5)) ∧
    isNaN 0x49742400 = false ∧ isFinite 0x42340000 = true := by decide

theorem witness_OutOfRangeFrequencyActsAsTheBound :
    (isFinite 0xC0A00000 = true ∧ val 0xC0A00000 ≤ 0) ∧
    (isFinite 0x4B989680 = true ∧ val booted.cfg.maxFreqHz ≤ val 0x4B989680) ∧
    val (booted.freq.get .ch0) + val 0xC47A0000 ≤ 0 := by decide

theorem witness_IncrementActsAsTheSetterOfTheSum :
    (isFinite 0x43FA0000 = true ∧ isFinite 0x44BB8000 = true ∧
      val 0x44BB8000 = val (booted.freq.get .ch0) + val 0x43FA0000) ∧
    val 0xC1F00000 = val (booted.phase.get .ch0) + val 0xC1F00000 := by decide

theorem witness_PhaseActsModulo360 : val 0xC1F00000 = val 0x43A50000 + (-1) * (fullTurn : Int) := by decide

theorem witness_ApplyKeepsTheFlags :
    booted.inputs = [] ∧ (∃ t, exec (.apply .sine .ch0 0 .ch1 0) booted = .next t ∧ ∃ u, runSteps 9 t = .next u) :=
  ⟨rfl, _, rfl, (runSteps_quiet rfl 9).imp fun _ h => h.1⟩

theorem witness_WordsPerCommand :
    (booted.seq = 0 ∧ booted.todo = [] ∧ booted.inputs = [] ∧ answersOk 6 booted) ∧
    (isCommand (.apply .sine .ch0 0 .ch0 0) = true ∧ operandsOk (.apply .sine .ch0 0 .ch0 0) = true ∧
      (Instr.apply .sine .ch0 0 .ch0 0 = .begin ↔ booted.begun = false)) ∧
    (Instr.begin = .begin ↔ State.reset.begun = false) := by decide

theorem witness_ReleasingWordsNeedOutputEnabled :
    ConfigLegal booted.cfg ∧ (booted.seq = 0 ∧ booted.todo = [] ∧ booted.inputs = [] ∧ answersOk 6 booted) ∧
    (isCommand (.enout true) = true ∧ operandsOk (.enout true) = true ∧ (Instr.enout true = .begin ↔ booted.begun = false)) :=
  ⟨witness_configLegal, by decide, by decide⟩

theorem witness_EveryCommandTerminates :
    booted.seq = 0 ∧ booted.todo = [] ∧ booted.inputs = [] ∧ isCommand .reset = true ∧ ∃ t, exec .reset booted = .next t :=
  ⟨rfl, rfl, rfl, rfl, _, rfl⟩

/-- Every clause of the writers' rule has a step that changes its register: here the last two, by an action of `APPLY`. -/
theorem witness_RegistersChangeOnlyThroughTheirCommands :
    (∃ t, step { booted with seq := 1, todo := [.setPhase .ch1 (90 * unit), .finish (.ok 0)] } = .next t ∧
      t.phase.get .ch1 ≠ booted.phase.get .ch1) ∧
    (∃ t, step { booted with inputs := [.command 0x08100000000000000000] } = .next t ∧ t.oe ≠ booted.oe) :=
  ⟨⟨_, rfl, by decide⟩, ⟨_, rfl, by decide⟩⟩

theorem witness_NoStepReadsTheTrace : ∃ t, step secondWordFails = .next t ∧ t.trace ≠ secondWordFails.trace :=
  ⟨_, rfl, by decide⟩

theorem witness_StepKeepsRegistersClampedAndNormalized : RegistersOk booted ∧ ∃ t, step booted = .next t :=
  ⟨witness_registersOk, _, rfl⟩

theorem witness_StepKeepsSequencerInStep : SequencerOk secondWordFails ∧ ∃ t, step secondWordFails = .next t :=
  ⟨by decide, _, rfl⟩

theorem witness_StepKeepsWordsInsideFrames :
    SequencerOk { secondWordFails with trace := [.sel false, .sel true, .word 0x2100] } ∧
    FramingOk { secondWordFails with trace := [.sel false, .sel true, .word 0x2100] } ∧
    ∃ t, step { secondWordFails with trace := [.sel false, .sel true, .word 0x2100] } = .next t :=
  ⟨by decide, by decide, _, rfl⟩

theorem witness_StepSendsOnlyTheSixFormats :
    secondWordFails.cfg.shapeBits = Config.default.shapeBits ∧
    secondWordFails.cfg.resetWord = Config.default.resetWord ∧ WordsOk secondWordFails ∧
    ∃ t, step secondWordFails = .next t := by
  refine ⟨rfl, rfl, ⟨by simp [secondWordFails, booted, State.reset, wordsOf], ?_⟩, _, step_quiet_eq rfl⟩
  simp only [secondWordFails, pendingWords, List.forall_mem_cons]
  exact ⟨rfl, rfl, by simp⟩

theorem witness_DisabledOutputNeverReleasesReset :
    HeldInReset secondWordFails ∧ ¬ Accepts secondWordFails (.enout true) ∧ ∃ t, step secondWordFails = .next t := by
  refine ⟨⟨witness_configLegal, by decide, ?_⟩, ?_, _, step_quiet_eq rfl⟩
  · simp only [secondWordFails, pendingWords, List.forall_mem_cons]
    exact ⟨rfl, rfl, by simp⟩
  · rintro ⟨h, -⟩
    revert h
    decide

theorem witness_OtherChannelIsUntouched :
    (booted.seq = 0 ∧ booted.todo = [] ∧ booted.inputs = []) ∧
    (∃ t, exec (.setfreq .ch1 0) booted = .next t ∧ ∃ u, runSteps 2 t = .next u) ∧
    (∃ t, exec (.incphase .ch1 0) booted = .next t ∧ ∃ u, runSteps 2 t = .next u) ∧
    (∃ t, exec (.setwave .ch1 .square) booted = .next t ∧ ∃ u, runSteps 2 t = .next u) := by
  refine ⟨by decide, ⟨_, rfl, ?_⟩, ⟨_, rfl, ?_⟩, ⟨_, rfl, ?_⟩⟩ <;>
    exact (runSteps_quiet rfl 2).imp fun _ h => h.1

end Sys2Proof.Tests
end

/-! Binary32 rounding (R10, R11) and the phase word (R12, R107). -/

namespace Sys2Proof.Machine

/-! ### The fields of a pattern as numbers (R10) -/

theorem expField_eq (b : B32) : expField b = b.toNat / 2 ^ 23 % 2 ^ 8 := by
  simp [expField, Nat.shiftRight_eq_div_pow]

theorem fracField_eq (b : B32) : fracField b = b.toNat % 2 ^ 23 := by
  simp [fracField]

theorem signBit_eq (b : B32) : signBit b = decide (2 ^ 31 ≤ b.toNat) := by
  rw [← BitVec.msb_eq_decide b, BitVec.msb_eq_getLsbD_last, signBit]

theorem isFinite_iff (b : B32) : isFinite b = true ↔ b.toNat % 2 ^ 31 < 0x7F800000 := by
  simp only [isFinite, expField_eq, bne_iff_ne]
  omega

theorem fracField_mod_two (b : B32) : fracField b % 2 = b.toNat % 2 := by
  rw [fracField_eq]
  omega

theorem val_of_signBit_false {b : B32} (h : signBit b = false) : val b = magnitude b := by
  simp [val, h]

/-- The pattern `k * 2^23 + c` of a significand `c` and a shift `k` has the magnitude `c * 2^k`, also where `c = 2^24` carries
into the exponent. -/
theorem magnitude_of_significand {b : B32} {k c : Nat} (hb : b.toNat % 2 ^ 31 = k * 2 ^ 23 + c) (hc : c ≤ 2 ^ 24)
    (hk : k = 0 ∨ 2 ^ 23 ≤ c) : magnitude b = c * 2 ^ k := by
  have he : expField b = (k * 2 ^ 23 + c) / 2 ^ 23 := by rw [expField_eq]; omega
  have hf : fracField b = c % 2 ^ 23 := by rw [fracField_eq]; omega
  rcases (by omega : c < 2 ^ 23 ∨ (2 ^ 23 ≤ c ∧ c < 2 ^ 24) ∨ c = 2 ^ 24) with h | h | h
  · obtain rfl : k = 0 := by omega
    rw [magnitude, if_pos (by omega)]
    omega
  · rw [magnitude, if_neg (by omega), show expField b - 1 = k by omega, show 2 ^ 23 + fracField b = c by omega]
  · rw [magnitude, if_neg (by omega), show expField b - 1 = k + 1 by omega, show fracField b = 0 by omega, h]
    ring

/-- Every pattern is `k * 2^23 + c` of a normalized significand: `c` has 24 bits, or fewer and the shift `k` is 0. -/
theorem exists_significand (b : B32) :
    ∃ k c, b.toNat % 2 ^ 31 = k * 2 ^ 23 + c ∧ c < 2 ^ 24 ∧ (k = 0 ∨ 2 ^ 23 ≤ c) ∧ magnitude b = c * 2 ^ k := by
  obtain ⟨k, c, hb, hc, hk⟩ : ∃ k c, b.toNat % 2 ^ 31 = k * 2 ^ 23 + c ∧ c < 2 ^ 24 ∧ (k = 0 ∨ 2 ^ 23 ≤ c) := by
    by_cases he : b.toNat % 2 ^ 31 < 2 ^ 23
    · exact ⟨0, b.toNat % 2 ^ 31, by omega, by omega, .inl rfl⟩
    · exact ⟨b.toNat % 2 ^ 31 / 2 ^ 23 - 1, 2 ^ 23 + b.toNat % 2 ^ 23, by omega, by omega, by omega⟩
  exact ⟨k, c, hb, hc, hk, magnitude_of_significand hb hc.le hk⟩

/-- A finite magnitude is at most the largest one, `0x7F7FFFFF`. -/
theorem magnitude_le_of_isFinite {b : B32} (h : isFinite b = true) : magnitude b ≤ (2 ^ 24 - 1) * 2 ^ 253 := by
  obtain ⟨k, c, hb, hc, hk, hm⟩ := exists_significand b
  rw [isFinite_iff] at h
  rw [hm]
  exact Nat.mul_le_mul (by omega) (Nat.pow_le_pow_right (by decide) (by omega))

/-- Of a last place `2^k` every magnitude is a whole multiple, unless it lies below all 24-bit significands with that place. -/
theorem magnitude_multiple_or_lt (b : B32) (k : Nat) :
    (∃ c, magnitude b = c * 2 ^ k) ∨ (k ≠ 0 ∧ magnitude b < 2 ^ 23 * 2 ^ k) := by
  obtain ⟨k', c, -, hc, -, hm⟩ := exists_significand b
  rcases Nat.lt_or_ge k' k with h | h
  · refine .inr ⟨by omega, ?_⟩
    calc magnitude b = c * 2 ^ k' := hm
      _ < 2 ^ 24 * 2 ^ k' := by gcongr
      _ = 2 ^ 23 * 2 ^ (k' + 1) := by ring
      _ ≤ 2 ^ 23 * 2 ^ k := by gcongr <;> omega
  · exact .inl ⟨c * 2 ^ (k' - k), by rw [hm, mul_assoc, ← pow_add, Nat.sub_add_cancel h]⟩

/-! ### Rounding a magnitude (R11) -/

/-- `c` is the significand and `2^k` the last place of `n / d` rounded to nearest, a tie to the even `c`. The two bounds on
`n` say that the place is the one a 24-bit significand of `n / d` has. -/
structure RoundsTo (n d k c : Nat) : Prop where
  significand_le : c ≤ 2 ^ 24
  normalized : k = 0 ∨ 2 ^ 23 ≤ c ∧ 2 ^ 23 * (d * 2 ^ k) ≤ n
  lt_place : n < 2 ^ 24 * (d * 2 ^ k)
  above : 2 * (c * (d * 2 ^ k)) ≤ 2 * n + d * 2 ^ k
  below : 2 * n ≤ 2 * (c * (d * 2 ^ k)) + d * 2 ^ k
  tie_even : 2 * (c * (d * 2 ^ k)) = 2 * n + d * 2 ^ k ∨ 2 * n = 2 * (c * (d * 2 ^ k)) + d * 2 ^ k → c % 2 = 0

/-- The shift `log2 (n / d) - 23` leaves a quotient of 24 bits, or of fewer when it is 0. -/
theorem place_bounds (n : Nat) {d k : Nat} (hd : 0 < d) (hk : k = Nat.log2 (n / d) - 23) :
    n < 2 ^ 24 * (d * 2 ^ k) ∧ (k = 0 ∨ 2 ^ 23 * (d * 2 ^ k) ≤ n) := by
  have hlt : n / d < 2 ^ (k + 24) :=
    Nat.lt_log2_self.trans_le (Nat.pow_le_pow_right (by decide) (by omega))
  rw [Nat.div_lt_iff_lt_mul hd, pow_add] at hlt
  refine ⟨by linarith, ?_⟩
  rcases Nat.eq_zero_or_pos k with h0 | hpos
  · exact .inl h0
  · have hle : 2 ^ (k + 23) ≤ n / d := by
      rw [show k + 23 = Nat.log2 (n / d) by omega]
      refine Nat.log2_self_le fun h0 => ?_
      simp only [h0, Nat.log2_zero] at hk
      omega
    rw [Nat.le_div_iff_mul_le hd, pow_add] at hle
    exact .inr (by linarith)

/-- `roundMagnitude` rounds to nearest even and packs the result, infinity being the largest pattern it packs. -/
theorem exists_roundsTo (n : Nat) {d : Nat} (hd : 0 < d) :
    ∃ k c, RoundsTo n d k c ∧ roundMagnitude n d = min (k * 2 ^ 23 + c) 0x7F800000 := by
  obtain ⟨k, hk⟩ : ∃ k, k = Nat.log2 (n / d) - 23 := ⟨_, rfl⟩
  obtain ⟨hlt, hle⟩ := place_bounds n hd hk
  have hu : 0 < d * 2 ^ k := by positivity
  have hq : n / (d * 2 ^ k) < 2 ^ 24 := by rwa [Nat.div_lt_iff_lt_mul hu]
  have hle' : k = 0 ∨ 2 ^ 23 ≤ n / (d * 2 ^ k) := hle.imp_right (Nat.le_div_iff_mul_le hu).2
  have hr : n % (d * 2 ^ k) < d * 2 ^ k := Nat.mod_lt _ hu
  have hn : n / (d * 2 ^ k) * (d * 2 ^ k) + n % (d * 2 ^ k) = n := Nat.div_add_mod' n _
  simp only [roundMagnitude, ← hk, add_assoc]
  refine ⟨k, _, ?_, rfl⟩
  split
  · have hup := Nat.add_one_mul (n / (d * 2 ^ k)) (d * 2 ^ k)
    constructor <;> omega
  · rw [Nat.add_zero]
    constructor <;> omega

/-- No whole number of places is nearer to `n / d` than the rounded one, and another one as near leaves it even. -/
theorem RoundsTo.nearest_multiple {n d k c : Nat} (h : RoundsTo n d k c) (c' : Nat) :
    |((c * 2 ^ k : Nat) : Int) * d - n| ≤ |((c' * 2 ^ k : Nat) : Int) * d - n| ∧
    (|((c * 2 ^ k : Nat) : Int) * d - n| = |((c' * 2 ^ k : Nat) : Int) * d - n| → c' ≠ c → c % 2 = 0) := by
  obtain ⟨-, -, -, habove, hbelow, htie⟩ := h
  have hplaces (m : Nat) : ((m * 2 ^ k : Nat) : Int) * d = (m * (d * 2 ^ k) : Nat) := by push_cast; ring
  rw [hplaces, hplaces, Int.abs_eq_natAbs, Int.abs_eq_natAbs]
  rcases Nat.lt_trichotomy c' c with hlt | rfl | hgt
  · have := Nat.mul_le_mul_right (d * 2 ^ k) (Nat.succ_le_of_lt hlt)
    rw [Nat.succ_mul] at this
    omega
  · simp
  · have := Nat.mul_le_mul_right (d * 2 ^ k) (Nat.succ_le_of_lt hgt)
    rw [Nat.succ_mul] at this
    omega

/-- No magnitude of a pattern is nearer to `n / d` than the rounded one, and another one as near leaves it even. -/
theorem RoundsTo.nearest {n d k c : Nat} (h : RoundsTo n d k c) (hd : 0 < d) (b : B32) :
    |((c * 2 ^ k : Nat) : Int) * d - n| ≤ |(magnitude b : Int) * d - n| ∧
    (|((c * 2 ^ k : Nat) : Int) * d - n| = |(magnitude b : Int) * d - n| → magnitude b ≠ c * 2 ^ k → c % 2 = 0) := by
  rcases magnitude_multiple_or_lt b k with ⟨c', hc'⟩ | ⟨hk, hlt⟩
  · rw [hc']
    obtain ⟨hle, htie⟩ := h.nearest_multiple c'
    exact ⟨hle, fun he hne => htie he fun hcc => hne (by rw [hcc])⟩
  · obtain ⟨-, hn⟩ := h.normalized.resolve_left hk
    have hstrict : |((c * 2 ^ k : Nat) : Int) * d - n| < |(magnitude b : Int) * d - n| := by
      refine (h.nearest_multiple (2 ^ 23)).1.trans_lt ?_
      have hb : magnitude b * d < 2 ^ 23 * 2 ^ k * d := Nat.mul_lt_mul_of_pos_right hlt hd
      have hn' : 2 ^ 23 * 2 ^ k * d ≤ n := by rwa [mul_assoc, mul_comm (2 ^ k) d]
      rw [← Nat.cast_mul, ← Nat.cast_mul, Int.abs_eq_natAbs, Int.abs_eq_natAbs]
      omega
    exact ⟨hstrict.le, fun he => absurd he hstrict.ne⟩

/-- The rounded pattern is finite exactly below `2^128 - 2^103`. -/
theorem RoundsTo.finite_iff {n d k c : Nat} (h : RoundsTo n d k c) (hd : 0 < d) :
    k * 2 ^ 23 + c < 0x7F800000 ↔ n < (2 ^ 128 - 2 ^ 103) * unit * d := by
  obtain ⟨hc, hnorm, hlt, habove, hbelow, htie⟩ := h
  have hbound : (2 ^ 128 - 2 ^ 103) * unit * d = (2 ^ 25 - 1) * (d * 2 ^ 252) := by
    simp only [unit]
    ring
  rw [hbound]
  have hpos : 0 < d * 2 ^ 252 := by positivity
  rcases Nat.lt_trichotomy k 253 with hk | rfl | hk
  · have hplace : d * 2 ^ k ≤ d * 2 ^ 252 := by gcongr <;> omega
    omega
  · have hplace : d * 2 ^ 253 = 2 * (d * 2 ^ 252) := by ring
    rcases (by omega : c = 2 ^ 24 ∨ c = 2 ^ 24 - 1 ∨ c ≤ 2 ^ 24 - 2) with rfl | rfl | hc'
    · omega
    · omega
    · have := Nat.mul_le_mul_right (d * 2 ^ 253) hc'
      omega
  · have hplace : d * 2 ^ 254 ≤ d * 2 ^ k := by gcongr <;> omega
    have hplace' : d * 2 ^ 254 = 4 * (d * 2 ^ 252) := by ring
    omega

/-! ### Rounding a signed quotient (R11) -/

theorem roundMagnitude_le (n d : Nat) : roundMagnitude n d ≤ 0x7F800000 := min_le_right _ _

theorem toNat_rnd32Quot (n : Int) (d : Nat) :
    (rnd32Quot n d).toNat = (if n < 0 then 2 ^ 31 else 0) + roundMagnitude n.natAbs d := by
  have := roundMagnitude_le n.natAbs d
  rw [rnd32Quot, BitVec.toNat_ofNat, Nat.mod_eq_of_lt]
  split <;> omega

@[simp] theorem signBit_rnd32Quot (n : Int) (d : Nat) : signBit (rnd32Quot n d) = decide (n < 0) := by
  have := roundMagnitude_le n.natAbs d
  rw [signBit_eq, toNat_rnd32Quot, decide_eq_decide]
  split <;> omega

theorem toNat_rnd32Quot_mod (n : Int) (d : Nat) :
    (rnd32Quot n d).toNat % 2 ^ 31 = roundMagnitude n.natAbs d := by
  have := roundMagnitude_le n.natAbs d
  rw [toNat_rnd32Quot]
  split <;> omega

/-- Below the overflow bound the result is finite, and its fields are those of the rounded significand. -/
theorem exists_rnd32Quot_significand {n : Int} {d : Nat} (hd : 0 < d)
    (hn : n.natAbs < (2 ^ 128 - 2 ^ 103) * unit * d) :
    isFinite (rnd32Quot n d) = true ∧ ∃ k c, RoundsTo n.natAbs d k c ∧ magnitude (rnd32Quot n d) = c * 2 ^ k ∧
      fracField (rnd32Quot n d) % 2 = c % 2 := by
  obtain ⟨k, c, hround, hpat⟩ := exists_roundsTo n.natAbs hd
  have hfin := (hround.finite_iff hd).2 hn
  rw [min_eq_left hfin.le, ← toNat_rnd32Quot_mod] at hpat
  refine ⟨by rw [isFinite_iff, hpat]; exact hfin, k, c, hround, ?_, ?_⟩
  · exact magnitude_of_significand hpat hround.significand_le (hround.normalized.imp_right And.left)
  · rw [fracField_mod_two]
    omega

theorem val_eq_zero_of_magnitude {b : B32} (h : magnitude b = 0) : val b = 0 := by
  simp [val, h]

/-- The distance to a value of the same sign is the distance of the magnitudes. -/
theorem abs_val_mul_sub_of_same_sign {b : B32} {n : Int} (h : signBit b = decide (n < 0)) (d : Nat) :
    |val b * d - n| = |(magnitude b : Int) * d - n.natAbs| := by
  rcases lt_or_ge n 0 with hn | hn
  · rw [val, h, if_pos (by simpa), Int.ofNat_natAbs_of_nonpos hn.le, ← abs_neg]
    ring_nf
  · rw [val, h, if_neg (by simpa), Int.natAbs_of_nonneg hn]

/-- The distance to a value of the other sign is the sum of the magnitudes. -/
theorem abs_val_mul_sub_of_other_sign {b : B32} {n : Int} (h : signBit b ≠ decide (n < 0)) (d : Nat) :
    |val b * d - n| = (magnitude b : Int) * d + n.natAbs := by
  have hm : 0 ≤ (magnitude b : Int) * d := by positivity
  have hneg : -(magnitude b : Int) * d = -((magnitude b : Int) * d) := neg_mul _ _
  rw [Int.abs_eq_natAbs, val]
  rcases lt_or_ge n 0 with hn | hn
  · rw [if_neg (by simpa [hn] using h)]
    omega
  · rw [if_pos (by simpa [hn.not_gt] using h), hneg]
    omega

/-- R11: below the overflow bound the result is nearest among all values, and even where another value is as near. -/
theorem rnd32Quot_nearest {n : Int} {d : Nat} (hd : 0 < d) (hn : n.natAbs < (2 ^ 128 - 2 ^ 103) * unit * d) (b : B32) :
    |val (rnd32Quot n d) * d - n| ≤ |val b * d - n| ∧
    (|val (rnd32Quot n d) * d - n| = |val b * d - n| → val b ≠ val (rnd32Quot n d) → fracField (rnd32Quot n d) % 2 = 0) := by
  obtain ⟨-, k, c, hround, hmag, hfrac⟩ := exists_rnd32Quot_significand hd hn
  have hsign := signBit_rnd32Quot n d
  rw [abs_val_mul_sub_of_same_sign hsign, hmag, hfrac]
  by_cases hb : signBit b = decide (n < 0)
  · rw [abs_val_mul_sub_of_same_sign hb]
    obtain ⟨hle, htie⟩ := hround.nearest hd b
    refine ⟨hle, fun he hne => htie he fun hm => hne ?_⟩
    rw [val, val, hb, hsign, hm, hmag]
  · rw [abs_val_mul_sub_of_other_sign hb]
    obtain ⟨hle, htie⟩ := hround.nearest_multiple 0
    have hzero : |((0 * 2 ^ k : Nat) : Int) * d - n.natAbs| = n.natAbs := by simp
    rw [hzero] at hle htie
    have hnonneg : 0 ≤ (magnitude b : Int) * d := by positivity
    refine ⟨by omega, fun he hne => htie (by omega) fun hc => hne ?_⟩
    have hmul : (magnitude b : Int) * d = 0 := by omega
    have hb0 : magnitude b = 0 := by simpa [hd.ne'] using hmul
    rw [val_eq_zero_of_magnitude hb0, val_eq_zero_of_magnitude (by simp [hmag, ← hc])]

/-- R11: from `2^128 - 2^103` on the result is the infinity of the sign. -/
theorem rnd32Quot_overflow {n : Int} {d : Nat} (hd : 0 < d) (hn : (2 ^ 128 - 2 ^ 103) * unit * d ≤ n.natAbs) :
    rnd32Quot n d = if n < 0 then 0xFF800000 else 0x7F800000 := by
  obtain ⟨k, c, hround, hpat⟩ := exists_roundsTo n.natAbs hd
  have hinf : 0x7F800000 ≤ k * 2 ^ 23 + c := not_lt.1 ((hround.finite_iff hd).not.2 hn.not_gt)
  rw [rnd32Quot, hpat, min_eq_right hinf]
  split <;> rfl

theorem rnd32Quot_zero (d : Nat) : rnd32Quot 0 d = 0x00000000 := by
  simp [rnd32Quot, roundMagnitude]

/-- Every finite value lies below the overflow bound. -/
theorem natAbs_val_lt_of_isFinite {b : B32} (h : isFinite b = true) :
    (val b).natAbs < (2 ^ 128 - 2 ^ 103) * unit * 1 := by
  have hval : (val b).natAbs = magnitude b := by
    rw [val]
    split <;> simp
  rw [hval]
  exact (magnitude_le_of_isFinite h).trans_lt (by norm_num [unit])

/-- R11: `rnd32` of a value keeps it, which is at distance 0 from itself. -/
theorem val_rnd32_val {b : B32} (h : isFinite b = true) : val (rnd32 (val b)) = val b := by
  have hnear := (rnd32Quot_nearest Nat.one_pos (natAbs_val_lt_of_isFinite h) b).1
  simpa [rnd32, sub_eq_zero] using hnear

/-- Settles O14, by the significand `RoundsTo` of the magnitude and its distance to every multiple of its last place. -/
theorem rnd32RoundsToNearestEven : Obligations.Rnd32RoundsToNearestEven :=
  ⟨fun _ _ hd hn => ⟨(exists_rnd32Quot_significand hd hn).1, fun b _ => rnd32Quot_nearest hd hn b⟩,
    fun _ _ hd hn => rnd32Quot_overflow hd hn,
    fun d _ => rnd32Quot_zero d,
    fun _ h => val_rnd32_val h⟩

/-! ### The phase word (R12, R107) -/

/-- R12: `round` is the floor of the quotient plus one half. -/
theorem roundHalfUp_eq_floor (a : Nat) {b : Nat} (hb : 0 < b) :
    (roundHalfUp a b : Int) = ⌊(a : ℚ) / b + 1 / 2⌋ := by
  have hquot : (a : ℚ) / b + 1 / 2 = ((2 * a + b : Nat) : ℚ) / ((2 * b : Nat) : ℚ) := by
    have : (b : ℚ) ≠ 0 := by positivity
    push_cast
    field_simp
  rw [hquot, Rat.floor_natCast_div_natCast, roundHalfUp, Int.natCast_div]

theorem fullTurn_pos : 0 < fullTurn := by decide

theorem toNat_pw (p : B32) : (pw p).toNat = roundHalfUp (magnitude p * 4096) fullTurn % 4096 := by
  simp only [pw, BitVec.toNat_ofNat, Config.phaseWordBits, Nat.reducePow]

/-- R107: the phase word of a pattern with sign bit 0 is the rounded number of steps, modulo 4096. -/
theorem toNat_pw_eq_floor {p : B32} (h : signBit p = false) :
    ((pw p).toNat : Int) = ⌊((val p : ℚ) / (unit : ℚ)) * 4096 / 360 + 1 / 2⌋ % 4096 := by
  have hsteps : ((val p : ℚ) / (unit : ℚ)) * 4096 / 360 = ((magnitude p * 4096 : Nat) : ℚ) / (fullTurn : ℚ) := by
    rw [val_of_signBit_false h, fullTurn]
    push_cast
    ring
  rw [hsteps, ← roundHalfUp_eq_floor _ fullTurn_pos, toNat_pw, Int.natCast_emod]
  norm_num

/-- R107: the last half step below 360 degrees rounds up to 4096 steps, which the modulus takes to 0. -/
theorem pw_eq_zero_of_last_half_step {p : B32} (hp : PhaseOk p) (h : 8191 * (fullTurn : Int) ≤ 8192 * val p) : pw p = 0 := by
  obtain ⟨-, hsign, -, hlt⟩ := hp
  rw [val_of_signBit_false hsign] at h hlt
  have hsteps : roundHalfUp (magnitude p * 4096) fullTurn = 4096 :=
    Nat.div_eq_of_lt_le (by omega) (by omega)
  apply BitVec.eq_of_toNat_eq
  rw [toNat_pw, hsteps]
  rfl

/-- Settles O19, by `roundHalfUp` as a floor. -/
theorem phaseWordFormula : Obligations.PhaseWordFormula :=
  ⟨fun _ ⟨_, hsign, _⟩ => toNat_pw_eq_floor hsign, fun _ hp h => pw_eq_zero_of_last_half_step hp h, by decide⟩

end Sys2Proof.Machine

/-! What one step does to the state, said once: the commands a word can decode to, what each accepted command writes and
opens, and the cases of a step. -/

namespace Sys2Proof.Machine

/-! ### Accepted commands (R131 to R192) -/

theorem isCommand_of_decodeOp {op : Nat} {w : CommandWord} {i : Instr} (h : decodeOp op w = .ok i) :
    isCommand i = true := by
  unfold decodeOp at h
  split at h <;> cases h <;> rfl

theorem isCommand_of_decode {w : CommandWord} {i : Instr} (h : decode (.command w) = .ok i) : isCommand i = true := by
  replace h : decodeCommand w = .ok i := h
  unfold decodeCommand at h
  split at h
  · exact isCommand_of_decodeOp h
  · cases h

/-- What an accepted command leaves behind: it has ended at once (a rejected operand or a readback), or it has written its
register and opened its first frame. -/
inductive Accepted (s : State) : Instr → State → Prop
  | ended {i : Instr} (e : Ending) : Accepted s i (finish e s)
  | begin : Accepted s .begin (resetBody (thenDone { s with begun := true }))
  | reset : Accepted s .reset (resetBody (thenDone s))
  | setfreq {ch : Chan} {a : B32} (x : XReal) (h : freqOperand a = some x) :
      Accepted s (.setfreq ch a) (setFreqBody ch x (thenDone s))
  | incfreq {ch : Chan} {a : B32} (d : XReal) (h : freqOperand a = some d) :
      Accepted s (.incfreq ch a) (setFreqBody ch (addFreq (s.freq.get ch) d) (thenDone s))
  | setphase {ch : Chan} {a : B32} (x : Int) (h : phaseOperand a = some x) :
      Accepted s (.setphase ch a) (setPhaseBody ch x (thenDone s))
  | incphase {ch : Chan} {a : B32} (d : Int) (h : phaseOperand a = some d) :
      Accepted s (.incphase ch a) (setPhaseBody ch (addPhase (s.phase.get ch) d) (thenDone s))
  | setwave {ch : Chan} {shape : Shape} : Accepted s (.setwave ch shape) (setWaveBody ch shape (thenDone s))
  | setsrc {fch pch : Chan} : Accepted s (.setsrc fch pch) (setSrcBody fch pch (thenDone s))
  | enout {en : Bool} : Accepted s (.enout en) (writeCtrl (thenDone { s with oe := en }))
  | sleep {en : Bool} : Accepted s (.sleep en) (writeCtrl (thenDone { s with dacdis := en, clkdis := en }))
  | dacoff {en : Bool} : Accepted s (.dacoff en) (writeCtrl (thenDone { s with dacdis := en }))
  | clkoff {en : Bool} : Accepted s (.clkoff en) (writeCtrl (thenDone { s with clkdis := en }))
  | apply {shape : Shape} {fch pch : Chan} {a b : B32} (x : XReal) (y : Int) (ha : freqOperand a = some x)
      (hb : phaseOperand b = some y) :
      Accepted s (.apply shape fch a pch b) (setFreqBody fch x { thenDone s with
        todo := .setPhase pch y :: .setWave fch shape :: .setSrc fch pch :: (thenDone s).todo })

/-- A command that does not stop the machine does what `Accepted` says. -/
theorem accepted_of_exec {s t : State} {i : Instr} (hi : isCommand i = true) (h : exec i s = .next t) :
    Accepted s i t := by
  cases i with
  | begin =>
    replace h : execBegin s = .next t := h
    unfold execBegin at h
    split at h
    · cases h
    · injection h with h
      exact h ▸ .begin
  | reset => exact (whenBegun_next h).2 ▸ .reset
  | setfreq ch a =>
    obtain ⟨-, rfl⟩ := whenBegun_next h
    split
    · exact .ended _
    · exact .setfreq _ ‹_›
  | incfreq ch a =>
    obtain ⟨-, rfl⟩ := whenBegun_next h
    split
    · exact .ended _
    · exact .incfreq _ ‹_›
  | setphase ch a =>
    obtain ⟨-, rfl⟩ := whenBegun_next h
    split
    · exact .ended _
    · exact .setphase _ ‹_›
  | incphase ch a =>
    obtain ⟨-, rfl⟩ := whenBegun_next h
    split
    · exact .ended _
    · exact .incphase _ ‹_›
  | setwave ch shape => exact (whenBegun_next h).2 ▸ .setwave
  | setsrc fch pch => exact (whenBegun_next h).2 ▸ .setsrc
  | enout en => exact (whenBegun_next h).2 ▸ .enout
  | sleep en => exact (whenBegun_next h).2 ▸ .sleep
  | dacoff en => exact (whenBegun_next h).2 ▸ .dacoff
  | clkoff en => exact (whenBegun_next h).2 ▸ .clkoff
  | apply shape fch a pch b =>
    obtain ⟨-, rfl⟩ := whenBegun_next h
    split
    · exact .apply _ _ ‹_› ‹_›
    · exact .ended _
  | getfreq ch => exact (whenBegun_next h).2 ▸ .ended _
  | getphase ch => exact (whenBegun_next h).2 ▸ .ended _
  | getres => exact (whenBegun_next h).2 ▸ .ended _
  | wFreqCh0 _ | wFreqCh1 _ | wPhaseCh0 _ | wPhaseCh1 _ | wCtrl _ _ _ _ _ _ | wReset => cases hi

/-! ### The cases of a step (R15, R34, R66, R231) -/

/-- Where the next state of a step comes from. The host's list of inputs, which no operation reads, is `inputs` after it. -/
inductive Stepped (s : State) : State → Prop
  | reset {t : State} (refclk : BitVec 32) (inputs : List Input) (hin : s.inputs = .hardReset refclk :: inputs)
      (h : construct refclk { s with inputs := inputs } = .next t) : Stepped s t
  | accepted {t : State} (i : Instr) (inputs : List Input) (hacc : Accepts s i) (hseq : s.seq = 0)
      (h : Accepted { s with inputs := inputs } i t) : Stepped s t
  | illegal (inputs : List Input) (hseq : s.seq = 0) : Stepped s (finish .illegalCommand { s with inputs := inputs })
  | idle (inputs : List Input) (htodo : s.todo = []) : Stepped s { s with inputs := inputs }
  | acted (inputs : List Input) (a : Action) (rest : List Action) (htodo : s.todo = a :: rest) :
      Stepped s (performed a { s with inputs := inputs, todo := rest })

theorem stepped_of_step {s t : State} (h : step s = .next t) : Stepped s t := by
  obtain ⟨refclk, inputs, hin, -, h⟩ | ⟨w, inputs, i, hin, hseq, hw, h⟩ | ⟨w, inputs, e, -, hseq, -, rfl⟩ |
    ⟨inputs, -, h⟩ := step_cases h
  · exact .reset refclk inputs hin h
  · exact .accepted i inputs ⟨hseq, w, inputs, hin, hw⟩ hseq (accepted_of_exec (isCommand_of_decode hw) h)
  · exact .illegal inputs hseq
  · cases htodo : s.todo with
    | nil =>
      rw [advance_idle (s := { s with inputs := inputs }) htodo] at h
      injection h with h
      exact h ▸ .idle inputs htodo
    | cons a rest =>
      rw [advance_cons (s := { s with inputs := inputs }) htodo] at h
      injection h with h
      exact h ▸ .acted inputs a rest htodo

/-! ### The state after one step of the running operation -/

theorem advanced_nil {s : State} (h : s.todo = []) : advanced s = s := by
  simp only [advanced, h]

theorem advanced_cons {s : State} {a : Action} {rest : List Action} (h : s.todo = a :: rest) :
    advanced s = performed a { s with todo := rest } := by
  simp only [advanced, h]

end Sys2Proof.Machine

/-! The register invariant (R21, R22): what the two setters store is a legal frequency and a legal phase. -/

namespace Sys2Proof.Machine

/-! ### Stored values (R100, R106) -/

theorem configLegal_default : ConfigLegal Config.default := by
  refine ⟨by decide, by decide, fun s t => ?_, fun s => ?_, by decide, by decide, by decide, by decide⟩
  · cases s <;> cases t <;> decide
  · cases s <;> decide

theorem clampF_le (cfg : Config) (x : XReal) : clampF cfg x ≤ maxFreq cfg := by
  unfold clampF
  split
  · exact Nat.zero_le _
  · exact le_rfl
  · split_ifs <;> omega

/-- R11: a real from 0 up to the value of a finite pattern rounds to a legal frequency under that value: to round it above the
value would be to round it farther away than the value stands. -/
theorem rnd32_between {n : Int} {b : B32} (hb : isFinite b = true) (h0 : 0 ≤ n) (hle : n ≤ val b) :
    isFinite (rnd32 n) = true ∧ signBit (rnd32 n) = false ∧ 0 ≤ val (rnd32 n) ∧ val (rnd32 n) ≤ val b := by
  have hbound : n.natAbs < (2 ^ 128 - 2 ^ 103) * unit * 1 :=
    (show n.natAbs ≤ (val b).natAbs by omega).trans_lt (natAbs_val_lt_of_isFinite hb)
  have hsign : signBit (rnd32 n) = false := by
    rw [rnd32, signBit_rnd32Quot]
    simpa
  refine ⟨(exists_rnd32Quot_significand Nat.one_pos hbound).1, hsign, ?_, ?_⟩
  · rw [val_of_signBit_false hsign]
    exact Int.natCast_nonneg _
  · have hnear : |val (rnd32 n) - n| ≤ |val b - n| := by
      simpa [rnd32] using (rnd32Quot_nearest Nat.one_pos hbound b).1
    rw [abs_of_nonneg (by omega : 0 ≤ val b - n)] at hnear
    have := le_abs_self (val (rnd32 n) - n)
    omega

/-- R21: the frequency a setter stores is legal. -/
theorem freqOk_clampF {cfg : Config} (hcfg : ConfigLegal cfg) (x : XReal) :
    FreqOk cfg (rnd32 (clampF cfg x : Int)) := by
  obtain ⟨hfin, hpos, -⟩ := hcfg
  have hle := clampF_le cfg x
  unfold maxFreq at hle
  exact rnd32_between hfin (Int.natCast_nonneg _) (by omega)

/-- R22, R106: the phase a setter stores is legal. -/
theorem phaseOk_normP (x : Int) : PhaseOk (normP x) := by
  have h0 : 0 ≤ remainder360 x := Int.emod_nonneg _ (by decide)
  have hlt : remainder360 x < fullTurn := Int.emod_lt_of_pos _ (by decide)
  have hturn : val 0x43B40000 = fullTurn := by decide
  obtain ⟨hfin, hsign, hpos, -⟩ := rnd32_between (b := 0x43B40000) (by decide) h0 (by omega)
  simp only [normP]
  split
  · decide
  · exact ⟨hfin, hsign, hpos, not_le.1 ‹_›⟩

/-! ### The invariant -/

/-- The invariant is about four fields. -/
theorem RegistersOk.of_eq {s t : State} (h : RegistersOk s) (hcfg : t.cfg = s.cfg) (hrefclk : t.refclk = s.refclk)
    (hfreq : t.freq = s.freq) (hphase : t.phase = s.phase) : RegistersOk t where
  cfg := hcfg ▸ h.cfg
  refclk := hrefclk ▸ h.refclk
  freq := by rw [hcfg, hfreq]; exact h.freq
  phase := by rw [hphase]; exact h.phase

theorem RegistersOk.setFreqBody {s : State} (h : RegistersOk s) (ch : Chan) (x : XReal) :
    RegistersOk (setFreqBody ch x s) where
  cfg := h.cfg
  refclk := h.refclk
  freq ch' := by
    rw [setFreqBody_eq, Pair.get_set]
    split
    · exact freqOk_clampF h.cfg x
    · exact h.freq ch'
  phase := h.phase

theorem RegistersOk.setPhaseBody {s : State} (h : RegistersOk s) (ch : Chan) (x : Int) :
    RegistersOk (setPhaseBody ch x s) where
  cfg := h.cfg
  refclk := h.refclk
  freq := h.freq
  phase ch' := by
    rw [setPhaseBody_eq, Pair.get_set]
    split
    · exact phaseOk_normP x
    · exact h.phase ch'

theorem RegistersOk.performed {s : State} (h : RegistersOk s) (a : Action) : RegistersOk (performed a s) := by
  cases a with
  | setPhase ch x => exact h.setPhaseBody ch x
  | word w => exact h.of_eq (memWrite_cfg w s) (memWrite_refclk w s) (memWrite_freq w s) (memWrite_phase w s)
  | deselect | delay _ | setWave _ _ | setSrc _ _ | finish _ => exact h.of_eq rfl rfl rfl rfl

theorem RegistersOk.accepted {s t : State} {i : Instr} (h : RegistersOk s) (hacc : Accepted s i t) : RegistersOk t := by
  have hdone : RegistersOk (thenDone s) := h.of_eq rfl rfl rfl rfl
  cases hacc with
  | setfreq x _ => exact hdone.setFreqBody _ _
  | incfreq d _ => exact hdone.setFreqBody _ _
  | apply x y _ _ =>
    refine RegistersOk.setFreqBody ?_ _ x
    exact h.of_eq rfl rfl rfl rfl
  | setphase x _ => exact hdone.setPhaseBody _ _
  | incphase d _ => exact hdone.setPhaseBody _ _
  | ended | begin | reset | setwave | setsrc | enout | sleep | dacoff | clkoff => exact h.of_eq rfl rfl rfl rfl

/-- R130: the reset values are legal for legal parameters. -/
theorem RegistersOk.construct {s t : State} {refclk : BitVec 32} (hcfg : ConfigLegal s.cfg)
    (h : construct refclk s = .next t) : RegistersOk t := by
  obtain ⟨hne, hrefclk, htcfg, hfreq, hphase, -⟩ := construct_next h
  obtain ⟨-, -, -, -, -, hfin, hsign, hle⟩ := id hcfg
  have hdefault : FreqOk s.cfg s.cfg.defaultFreqHz :=
    ⟨hfin, hsign, val_of_signBit_false hsign ▸ Int.natCast_nonneg _, hle⟩
  refine ⟨htcfg ▸ hcfg, hrefclk ▸ hne, fun ch => ?_, fun ch => ?_⟩
  · rw [htcfg, hfreq]
    cases ch <;> exact hdefault
  · rw [hphase]
    cases ch <;> decide

/-- Settles O52, by the cases of a step and the legality of what a setter stores. -/
theorem stepKeepsRegistersClampedAndNormalized : Obligations.StepKeepsRegistersClampedAndNormalized := by
  intro s t hs hstep
  have hinputs (inputs : List Input) : RegistersOk { s with inputs := inputs } := hs.of_eq rfl rfl rfl rfl
  cases stepped_of_step hstep with
  | reset refclk inputs _ h => exact RegistersOk.construct (hinputs inputs).cfg h
  | accepted i inputs _ _ h => exact (hinputs inputs).accepted h
  | illegal inputs _ => exact hs.of_eq rfl rfl rfl rfl
  | idle inputs _ => exact hinputs inputs
  | acted inputs a rest _ =>
    exact RegistersOk.performed (s := { s with inputs := inputs, todo := rest }) (hs.of_eq rfl rfl rfl rfl) a

end Sys2Proof.Machine

/-! The sequencer invariant (R31, R34, R53). -/

namespace Sys2Proof.Machine

/-! ### What is left to do -/

/-- A frame that has room for its words is the inside of a frame, and what follows it is what may follow a frame. -/
theorem insideFrame_frame {room : Nat} {ws : List ChannelWord} (h : ws.length ≤ room) (rest : List Action) :
    insideFrame room (ws.map .word ++ .deselect :: rest) = betweenFrames rest := by
  induction ws generalizing room with
  | nil => rfl
  | cons w ws ih =>
    simp only [List.length_cons] at h
    have hroom : (room != 0) = true := by simp; omega
    simp only [List.map_cons, List.cons_append, insideFrame, hroom, Bool.true_and]
    exact ih (by omega)

/-- The room of a frame bounds its words only. -/
theorem insideFrame_of_no_word {room : Nat} {l : List Action} (h : insideFrame room l = true) (hl : wordNext l = false)
    (room' : Nat) : insideFrame room' l = true := by
  unfold insideFrame at h
  split at h
  · cases hl
  · exact h
  · cases h

theorem room_of_wordNext {room : Nat} {l : List Action} (h : insideFrame room l = true) (hl : wordNext l = true) :
    room ≠ 0 := by
  unfold wordNext at hl
  split at hl
  · simp only [insideFrame, Bool.and_eq_true, bne_iff_ne] at h
    exact h.1
  · cases hl

/-! ### The invariant -/

theorem sequencerOk_openFrame {ws : List ChannelWord} {s : State} (hws : ws.length ≤ 3)
    (h : betweenFrames s.todo = true) : SequencerOk (openFrame ws s) :=
  .inr ⟨by simp, .inl (by rw [openFrame_todo]; exact (insideFrame_frame hws _).trans h)⟩

/-- One word of a frame that has room for it: on `Ok` the room and `SEQ` move by one together, so that `SEQ` does not wrap, and
on `Fault` the operation ends. -/
theorem sequencerOk_memWrite {w : ChannelWord} {s : State} (hseq : s.seq ≠ 0)
    (h : insideFrame (4 - s.seq.toNat - 1) s.todo = true) : SequencerOk (memWrite w s) := by
  rcases nextAnswer_cases s with hok | hfault
  · rw [memWrite_of_ok hok]
    cases hnext : wordNext s.todo with
    | false => exact .inr ⟨by simpa [hnext] using hseq, .inl (insideFrame_of_no_word h hnext _)⟩
    | true =>
      have hroom := room_of_wordNext h hnext
      have hsucc : (s.seq + 1).toNat = s.seq.toNat + 1 := BitVec.toNat_add_of_lt (by simp; omega)
      have hne : s.seq + 1 ≠ 0 := by bv_omega
      have hmove : 4 - (s.seq + 1).toNat = 4 - s.seq.toNat - 1 := by omega
      exact .inr ⟨hne, .inl (by simpa only [if_true, hmove] using h)⟩
  · rw [memWrite_of_fault hfault]
    exact .inr ⟨hseq, .inl rfl⟩

/-- One action of a running operation, `rest` being left after it. -/
theorem sequencerOk_performed {s : State} {a : Action} (hseq : s.seq ≠ 0)
    (h : insideFrame (4 - s.seq.toNat) (a :: s.todo) = true ∨ betweenFrames (a :: s.todo) = true) :
    SequencerOk (performed a s) := by
  cases a with
  | word w =>
    simp only [insideFrame, betweenFrames, Bool.and_eq_true, Bool.false_eq_true, or_false] at h
    exact sequencerOk_memWrite hseq h.2
  | deselect => exact .inr ⟨hseq, .inr (by simpa [performed, insideFrame, betweenFrames] using h)⟩
  | delay ms => exact .inr ⟨hseq, .inr (by simpa [performed, insideFrame, betweenFrames] using h)⟩
  | setPhase ch x => exact sequencerOk_openFrame (by simp) (by simpa [insideFrame, betweenFrames] using h)
  | setWave ch shape => exact sequencerOk_openFrame (by simp) (by simpa [insideFrame, betweenFrames] using h)
  | setSrc fch pch => exact sequencerOk_openFrame (by simp) (by simpa [insideFrame, betweenFrames] using h)
  | finish e =>
    have htodo : s.todo = [] := by
      cases ht : s.todo with
      | nil => rfl
      | cons b l => simp [ht, insideFrame, betweenFrames] at h
    exact .inl ⟨rfl, htodo⟩

/-- An idle block that accepts a command opens the first frame of one operation, or is idle again. -/
theorem sequencerOk_accepted {s t : State} {i : Instr} (htodo : s.todo = []) (h : Accepted s i t) : SequencerOk t := by
  cases h with
  | ended e => exact .inl ⟨rfl, htodo⟩
  | begin | reset | setfreq | incfreq | setphase | incphase | setwave | setsrc | enout | sleep | dacoff | clkoff | apply =>
    exact sequencerOk_openFrame (by simp) (by simp [htodo, betweenFrames])

/-- Settles O53, by the cases of a step. -/
theorem stepKeepsSequencerInStep : Obligations.StepKeepsSequencerInStep := by
  intro s t hs hstep
  have hidle (hseq : s.seq = 0) : s.todo = [] := hs.elim And.right fun h => absurd hseq h.1
  cases stepped_of_step hstep with
  | reset refclk inputs _ h =>
    obtain ⟨-, -, -, -, -, -, -, -, -, -, -, -, hseq, htodo, -⟩ := construct_next h
    exact .inl ⟨hseq, htodo⟩
  | accepted i inputs _ hseq h => exact sequencerOk_accepted (s := { s with inputs := inputs }) (hidle hseq) h
  | illegal inputs hseq => exact .inl ⟨rfl, hidle hseq⟩
  | idle inputs _ => exact hs
  | acted inputs a rest htodo =>
    obtain ⟨-, hnil⟩ | ⟨hseq, hrest⟩ := hs
    · rw [htodo] at hnil
      cases hnil
    · exact sequencerOk_performed hseq (htodo ▸ hrest)

end Sys2Proof.Machine

/-! While `OE = 0` no word releases the chip from reset (R238, R239). -/

namespace Sys2Proof.Machine

/-! ### Which words release the chip (R59) -/

/-- One bit of the tag, or bit 8, is enough to keep a word from releasing the chip. -/
theorem releasesReset_of_bit {w : ChannelWord} (i : Nat) (hw : w.getLsbD i = true)
    (hi : (0xC100 : ChannelWord).getLsbD i = true) : releasesReset w = false := by
  rw [releasesReset, beq_eq_false_iff_ne]
  intro h
  have hbit := mask_bit h i
  rw [hw, hi] at hbit
  simp at hbit

theorem releasesReset_freqWord (ch : Chan) (half : BitVec 14) : releasesReset (freqWord ch half) = false := by
  cases ch with
  | ch0 => exact releasesReset_of_bit 14 (by simp [freqWord, ftag]) rfl
  | ch1 => exact releasesReset_of_bit 15 (by simp [freqWord, ftag]) rfl

theorem releasesReset_pword (ch : Chan) (p : B32) : releasesReset (pword ch p) = false :=
  releasesReset_of_bit 15 (by simp [pword, phaseWord]) rfl

/-- R110: bit 8 of the control image is the negation of `OE`. -/
theorem releasesReset_ctrl {s : State} (h : s.oe = false) : releasesReset (ctrl s) = false :=
  releasesReset_of_bit 8 (by simp [ctrl, h]) rfl

theorem releasesReset_resetWord {cfg : Config} (h : ConfigLegal cfg) : releasesReset cfg.resetWord = false := by
  obtain ⟨-, -, -, -, hword, -⟩ := h
  rw [releasesReset, hword]
  rfl

/-! ### Steps that keep the chip held -/

theorem pendingWords_frame (ws : List ChannelWord) (rest : List Action) :
    pendingWords (ws.map .word ++ .deselect :: rest) = ws ++ pendingWords rest := by
  induction ws with
  | nil => rfl
  | cons w ws ih => simp [pendingWords, ih]

/-- From `s` to `t` no releasing word is sent, and none is about to be sent in `t` (R239). -/
def StaysHeld (s t : State) : Prop :=
  HeldInReset t ∧ ∃ events, t.trace = s.trace ++ events ∧ ∀ w ∈ wordsOf events, releasesReset w = false

theorem HeldInReset.finish {s : State} (h : HeldInReset s) (e : Ending) : StaysHeld s (finish e s) :=
  ⟨h, [], by simp, by simp [wordsOf]⟩

theorem HeldInReset.emit {s : State} (h : HeldInReset s) {e : Event} (he : wordsOf [e] = []) : StaysHeld s (emit e s) :=
  ⟨h, [e], rfl, by simp [he]⟩

theorem HeldInReset.openFrame {s : State} (h : HeldInReset s) {ws : List ChannelWord}
    (hws : ∀ w ∈ ws, releasesReset w = false) : StaysHeld s (openFrame ws s) := by
  obtain ⟨hcfg, hoe, hpending⟩ := h
  refine ⟨⟨hcfg, hoe, ?_⟩, [.sel true], rfl, by simp [wordsOf]⟩
  rw [openFrame_todo, pendingWords_frame]
  simpa [or_imp, forall_and] using ⟨hws, hpending⟩

theorem HeldInReset.setFreqBody {s : State} (h : HeldInReset s) (ch : Chan) (x : XReal) :
    StaysHeld s (setFreqBody ch x s) := by
  obtain ⟨-, hoe, -⟩ := id h
  exact HeldInReset.openFrame (s := { s with freq := s.freq.set ch (rnd32 (clampF s.cfg x : Int)) }) h
    (by simp [releasesReset_ctrl, hoe, freqLow, freqHigh, releasesReset_freqWord])

theorem HeldInReset.setPhaseBody {s : State} (h : HeldInReset s) (ch : Chan) (x : Int) :
    StaysHeld s (setPhaseBody ch x s) :=
  HeldInReset.openFrame (s := { s with phase := s.phase.set ch (normP x) }) h (by simp [releasesReset_pword])

theorem HeldInReset.writeCtrl {s : State} (h : HeldInReset s) : StaysHeld s (writeCtrl s) := by
  obtain ⟨-, hoe, -⟩ := id h
  exact h.openFrame (by simp [releasesReset_ctrl hoe])

theorem HeldInReset.resetBody {s : State} (h : HeldInReset s) : StaysHeld s (resetBody s) := by
  obtain ⟨hcfg, -, -⟩ := id h
  exact HeldInReset.openFrame (s := { s with todo := .delay s.cfg.resetSettleMs :: s.todo }) h
    (by simp [releasesReset_resetWord hcfg])

/-- The word written was pending; on `Fault` no word is left. -/
theorem HeldInReset.memWrite {s : State} {w : ChannelWord} (h : HeldInReset s) (hw : releasesReset w = false) :
    StaysHeld s (memWrite w s) := by
  refine ⟨?_, [.word w], memWrite_trace w s, by simpa [wordsOf] using hw⟩
  obtain ⟨hcfg, hoe, hpending⟩ := h
  rcases nextAnswer_cases s with hok | hfault
  · rw [memWrite_of_ok hok]
    exact ⟨hcfg, hoe, hpending⟩
  · rw [memWrite_of_fault hfault]
    exact ⟨hcfg, hoe, by simp [pendingWords]⟩

theorem HeldInReset.performed {s : State} {a : Action} {rest : List Action} (h : HeldInReset s)
    (htodo : s.todo = a :: rest) : StaysHeld s (performed a { s with todo := rest }) := by
  obtain ⟨hcfg, hoe, hpending⟩ := h
  rw [htodo] at hpending
  cases a with
  | word w =>
    rw [pendingWords, List.forall_mem_cons] at hpending
    exact HeldInReset.memWrite (s := { s with todo := rest }) ⟨hcfg, hoe, hpending.2⟩ hpending.1
  | deselect => exact HeldInReset.emit (s := { s with todo := rest }) ⟨hcfg, hoe, hpending⟩ rfl
  | delay ms => exact HeldInReset.emit (s := { s with todo := rest }) ⟨hcfg, hoe, hpending⟩ rfl
  | setPhase ch x => exact HeldInReset.setPhaseBody (s := { s with todo := rest }) ⟨hcfg, hoe, hpending⟩ ch x
  | setWave ch shape =>
    exact HeldInReset.writeCtrl (s := { s with todo := rest, wave := s.wave.set ch shape }) ⟨hcfg, hoe, hpending⟩
  | setSrc fch pch =>
    exact HeldInReset.writeCtrl (s := { s with todo := rest, afc := fch, apc := pch }) ⟨hcfg, hoe, hpending⟩
  | finish e => exact HeldInReset.finish (s := { s with todo := rest }) ⟨hcfg, hoe, hpending⟩ e

/-- Every accepted command but `ENOUT true` keeps the chip held. -/
theorem HeldInReset.accepted {s t : State} {i : Instr} (h : HeldInReset s) (hi : i ≠ .enout true)
    (hacc : Accepted s i t) : StaysHeld s t := by
  have hdone : HeldInReset (thenDone s) := h
  cases hacc with
  | ended e => exact h.finish e
  | begin => exact HeldInReset.resetBody (s := thenDone { s with begun := true }) h
  | reset => exact hdone.resetBody
  | setfreq x _ => exact hdone.setFreqBody _ _
  | incfreq d _ => exact hdone.setFreqBody _ _
  | apply x y _ _ =>
    refine HeldInReset.setFreqBody (s := { thenDone s with todo := _ }) ?_ _ x
    exact h
  | setphase x _ => exact hdone.setPhaseBody _ _
  | incphase d _ => exact hdone.setPhaseBody _ _
  | setwave => exact HeldInReset.writeCtrl (s := { thenDone s with wave := s.wave.set _ _ }) h
  | setsrc => exact HeldInReset.writeCtrl (s := { thenDone s with afc := _, apc := _ }) h
  | @enout en =>
    obtain rfl : en = false := by simpa using hi
    obtain ⟨hcfg, -, hpending⟩ := h
    exact HeldInReset.writeCtrl (s := thenDone { s with oe := false }) ⟨hcfg, rfl, hpending⟩
  | @sleep en => exact HeldInReset.writeCtrl (s := thenDone { s with dacdis := en, clkdis := en }) h
  | @dacoff en => exact HeldInReset.writeCtrl (s := thenDone { s with dacdis := en }) h
  | @clkoff en => exact HeldInReset.writeCtrl (s := thenDone { s with clkdis := en }) h

theorem heldInReset_reset : HeldInReset State.reset :=
  ⟨configLegal_default, rfl, by simp [State.reset, pendingWords]⟩

/-- Settles O56, by the cases of a step. -/
theorem disabledOutputNeverReleasesReset : Obligations.DisabledOutputNeverReleasesReset := by
  refine ⟨heldInReset_reset, fun s t hs hnot hstep => ?_⟩
  show StaysHeld s t
  cases stepped_of_step hstep with
  | reset refclk inputs _ h =>
    obtain ⟨-, -, hcfg, -, -, -, -, -, hoe, -, -, -, -, htodo, -, -, -, htrace, -⟩ := construct_next h
    exact ⟨⟨hcfg ▸ hs.1, hoe, by simp [htodo, pendingWords]⟩, [.sel false], htrace, by simp [wordsOf]⟩
  | accepted i inputs hacc _ h =>
    exact HeldInReset.accepted (s := { s with inputs := inputs }) hs (fun hi => hnot (hi ▸ hacc)) h
  | illegal inputs _ => exact HeldInReset.finish (s := { s with inputs := inputs }) hs _
  | idle inputs _ => exact ⟨hs, [], by simp, by simp [wordsOf]⟩
  | acted inputs a rest htodo => exact HeldInReset.performed (s := { s with inputs := inputs }) hs htodo

end Sys2Proof.Machine

/-! Which register a step changes, and through which command (R21 to R33, R7). -/

namespace Sys2Proof.Machine

/-! ### Accepted commands -/

theorem chan_eq_of_get_set_ne {α : Type} {p : Pair α} {ch ch' : Chan} {v : α} (h : (p.set ch v).get ch' ≠ p.get ch') :
    ch' = ch := by
  by_contra hne
  exact h (by rw [Pair.get_set, if_neg hne])

section Accepted

variable {s t : State} {i : Instr}

theorem Accepted.cfg (h : Accepted s i t) : t.cfg = s.cfg := by cases h <;> rfl

theorem Accepted.refclk (h : Accepted s i t) : t.refclk = s.refclk := by cases h <;> rfl

theorem Accepted.begun_changes (h : Accepted s i t) (hne : t.begun ≠ s.begun) : i = .begin := by
  cases h
  case begin => rfl
  all_goals exact absurd rfl hne

theorem Accepted.oe_changes (h : Accepted s i t) (hne : t.oe ≠ s.oe) : ∃ en, i = .enout en := by
  cases h
  case enout en => exact ⟨en, rfl⟩
  all_goals exact absurd rfl hne

theorem Accepted.dacdis_changes (h : Accepted s i t) (hne : t.dacdis ≠ s.dacdis) :
    ∃ en, i = .dacoff en ∨ i = .sleep en := by
  cases h
  case dacoff en => exact ⟨en, .inl rfl⟩
  case sleep en => exact ⟨en, .inr rfl⟩
  all_goals exact absurd rfl hne

theorem Accepted.clkdis_changes (h : Accepted s i t) (hne : t.clkdis ≠ s.clkdis) :
    ∃ en, i = .clkoff en ∨ i = .sleep en := by
  cases h
  case clkoff en => exact ⟨en, .inl rfl⟩
  case sleep en => exact ⟨en, .inr rfl⟩
  all_goals exact absurd rfl hne

theorem Accepted.freq_changes (h : Accepted s i t) {ch : Chan} (hne : t.freq.get ch ≠ s.freq.get ch) :
    ∃ a, i = .setfreq ch a ∨ i = .incfreq ch a ∨ ∃ shape pch b, i = .apply shape ch a pch b := by
  cases h
  case setfreq ch' a x _ =>
    obtain rfl := chan_eq_of_get_set_ne (p := s.freq) hne
    exact ⟨a, .inl rfl⟩
  case incfreq ch' a d _ =>
    obtain rfl := chan_eq_of_get_set_ne (p := s.freq) hne
    exact ⟨a, .inr (.inl rfl)⟩
  case apply shape fch pch a b x y _ _ =>
    obtain rfl := chan_eq_of_get_set_ne (p := s.freq) hne
    exact ⟨a, .inr (.inr ⟨shape, pch, b, rfl⟩)⟩
  all_goals exact absurd rfl hne

theorem Accepted.phase_changes (h : Accepted s i t) {ch : Chan} (hne : t.phase.get ch ≠ s.phase.get ch) :
    ∃ a, i = .setphase ch a ∨ i = .incphase ch a := by
  cases h
  case setphase ch' a x _ =>
    obtain rfl := chan_eq_of_get_set_ne (p := s.phase) hne
    exact ⟨a, .inl rfl⟩
  case incphase ch' a d _ =>
    obtain rfl := chan_eq_of_get_set_ne (p := s.phase) hne
    exact ⟨a, .inr rfl⟩
  all_goals exact absurd rfl hne

theorem Accepted.wave_changes (h : Accepted s i t) {ch : Chan} (hne : t.wave.get ch ≠ s.wave.get ch) :
    ∃ shape, i = .setwave ch shape := by
  cases h
  case setwave ch' shape =>
    obtain rfl := chan_eq_of_get_set_ne (p := s.wave) hne
    exact ⟨shape, rfl⟩
  all_goals exact absurd rfl hne

theorem Accepted.source_changes (h : Accepted s i t) (hne : t.afc ≠ s.afc ∨ t.apc ≠ s.apc) :
    ∃ fch pch, i = .setsrc fch pch := by
  cases h
  case setsrc fch pch => exact ⟨fch, pch, rfl⟩
  all_goals exact hne.elim (absurd rfl) (absurd rfl)

end Accepted

/-! ### The actions of `APPLY` (R180) -/

section Performed

variable {s : State} {a : Action}

theorem performed_phase_changes {ch : Chan} (hne : (performed a s).phase.get ch ≠ s.phase.get ch) :
    ∃ x, a = .setPhase ch x := by
  cases a with
  | setPhase ch' x =>
    obtain rfl := chan_eq_of_get_set_ne (p := s.phase) hne
    exact ⟨x, rfl⟩
  | word w => exact absurd (by rw [performed, memWrite_phase]) hne
  | deselect | delay _ | setWave _ _ | setSrc _ _ | finish _ => exact absurd rfl hne

theorem performed_wave_changes {ch : Chan} (hne : (performed a s).wave.get ch ≠ s.wave.get ch) :
    ∃ shape, a = .setWave ch shape := by
  cases a with
  | setWave ch' shape =>
    obtain rfl := chan_eq_of_get_set_ne (p := s.wave) hne
    exact ⟨shape, rfl⟩
  | word w => exact absurd (by rw [performed, memWrite_wave]) hne
  | deselect | delay _ | setPhase _ _ | setSrc _ _ | finish _ => exact absurd rfl hne

theorem performed_source_changes (hne : (performed a s).afc ≠ s.afc ∨ (performed a s).apc ≠ s.apc) :
    ∃ fch pch, a = .setSrc fch pch := by
  cases a with
  | setSrc fch pch => exact ⟨fch, pch, rfl⟩
  | word w => exact hne.elim (absurd (memWrite_afc w s)) (absurd (memWrite_apc w s))
  | deselect | delay _ | setPhase _ _ | setWave _ _ | finish _ => exact hne.elim (absurd rfl) (absurd rfl)

end Performed

/-- Settles O49: in every case of a step each register is unchanged, or its own command or action was the one of the step. -/
theorem registersChangeOnlyThroughTheirCommands : Obligations.RegistersChangeOnlyThroughTheirCommands := by
  intro s t hstep
  cases stepped_of_step hstep with
  | reset refclk inputs hin h =>
    obtain ⟨-, -, hcfg, -⟩ := construct_next h
    exact ⟨hcfg, fun hnot => absurd ⟨refclk, inputs, hin⟩ hnot⟩
  | accepted i inputs hacc _ h =>
    refine ⟨h.cfg, fun _ => ⟨h.refclk, fun hne => h.begun_changes hne ▸ hacc, fun hne => ?_, fun hne => ?_, fun hne => ?_,
      fun ch hne => ?_, fun ch hne => .inl ?_, fun ch hne => .inl ?_, fun hne => .inl ?_⟩⟩
    · obtain ⟨en, rfl⟩ := h.oe_changes hne
      exact ⟨en, hacc⟩
    · obtain ⟨en, rfl | rfl⟩ := h.dacdis_changes hne
      exacts [⟨en, .inl hacc⟩, ⟨en, .inr hacc⟩]
    · obtain ⟨en, rfl | rfl⟩ := h.clkdis_changes hne
      exacts [⟨en, .inl hacc⟩, ⟨en, .inr hacc⟩]
    · obtain ⟨a, rfl | rfl | ⟨shape, pch, b, rfl⟩⟩ := h.freq_changes hne
      exacts [⟨a, .inl hacc⟩, ⟨a, .inr (.inl hacc)⟩, ⟨a, .inr (.inr ⟨shape, pch, b, hacc⟩)⟩]
    · obtain ⟨a, rfl | rfl⟩ := h.phase_changes hne
      exacts [⟨a, .inl hacc⟩, ⟨a, .inr hacc⟩]
    · obtain ⟨shape, rfl⟩ := h.wave_changes hne
      exact ⟨shape, hacc⟩
    · obtain ⟨fch, pch, rfl⟩ := h.source_changes hne
      exact ⟨fch, pch, hacc⟩
  | illegal inputs _ => simp
  | idle inputs _ => simp
  | acted inputs a rest htodo =>
    refine ⟨by simp, fun _ => ⟨by simp, by simp, by simp, by simp, by simp, by simp,
      fun ch hne => .inr ?_, fun ch hne => .inr ?_, fun hne => .inr ?_⟩⟩
    · obtain ⟨x, rfl⟩ := performed_phase_changes (s := { s with inputs := inputs, todo := rest }) hne
      exact ⟨x, rest, htodo⟩
    · obtain ⟨shape, rfl⟩ := performed_wave_changes (s := { s with inputs := inputs, todo := rest }) hne
      exact ⟨shape, rest, htodo⟩
    · obtain ⟨fch, pch, rfl⟩ := performed_source_changes (s := { s with inputs := inputs, todo := rest }) hne
      exact ⟨fch, pch, rest, htodo⟩

end Sys2Proof.Machine

/-! No step reads the trace or the responses (R36, R14). -/

namespace Sys2Proof.Machine

/-- The state with another past behind it. -/
def withPast (trace : List Event) (responses : List Response) (s : State) : State :=
  { s with trace := trace, responses := responses }

/-- Whatever the past of `s` is, `g` appends the same events and responses to it and does the same otherwise. -/
def AppendsOnly (g : State → State) (s : State) : Prop :=
  ∃ events answered, ∀ trace responses,
    g (withPast trace responses s) = withPast (trace ++ events) (responses ++ answered) (g s)

/-- Whatever the past of `s` is, `f` has the next state `t`, with the same events and responses appended to that past. -/
def IgnoresPast (f : State → Result) (s t : State) : Prop :=
  ∃ events answered, ∀ trace responses,
    f (withPast trace responses s) = .next (withPast (trace ++ events) (responses ++ answered) t)

theorem IgnoresPast.of_appendsOnly {f : State → Result} {g : State → State} {s : State}
    (hf : ∀ s, f s = .next (g s)) (h : AppendsOnly g s) : IgnoresPast f s (g s) := by
  obtain ⟨events, answered, h⟩ := h
  exact ⟨events, answered, fun trace responses => by rw [hf, h]⟩

theorem IgnoresPast.of_eq {f g : State → Result} {s s' t : State} (h : IgnoresPast g s' t)
    (hf : ∀ trace responses, f (withPast trace responses s) = g (withPast trace responses s')) : IgnoresPast f s t := by
  obtain ⟨events, answered, h⟩ := h
  exact ⟨events, answered, fun trace responses => (hf trace responses).trans (h trace responses)⟩

theorem IgnoresPast.whenBegun {g : State → State} {s t : State} (h : AppendsOnly g s)
    (hnext : whenBegun s (g s) = .next t) : IgnoresPast (fun s => whenBegun s (g s)) s t := by
  obtain ⟨hbegun, rfl⟩ := whenBegun_next hnext
  obtain ⟨events, answered, h⟩ := h
  exact ⟨events, answered, fun trace responses => (whenBegun_of_begun hbegun _).trans (by rw [h])⟩

/-! ### Operations and commands -/

theorem appendsOnly_of_event {g : State → State} {s : State} {e : Event}
    (h : ∀ trace responses, g (withPast trace responses s) = withPast (trace ++ [e]) responses (g s)) :
    AppendsOnly g s :=
  ⟨[e], [], fun trace responses => by rw [List.append_nil, h]⟩

theorem appendsOnly_of_response {g : State → State} {s : State} {r : Response}
    (h : ∀ trace responses, g (withPast trace responses s) = withPast trace (responses ++ [r]) (g s)) :
    AppendsOnly g s :=
  ⟨[], [r], fun trace responses => by rw [List.append_nil, h]⟩

/-- A readback whose value does not come from the past. -/
theorem appendsOnly_answer {v : State → B32} {s : State} (hv : ∀ trace responses, v (withPast trace responses s) = v s) :
    AppendsOnly (fun s => finish (.ok (v s)) s) s :=
  appendsOnly_of_response (r := ⟨.ok, v s⟩) fun trace responses => by simp only [hv]; rfl

theorem appendsOnly_memWrite (w : ChannelWord) (s : State) : AppendsOnly (memWrite w) s := by
  refine appendsOnly_of_event (e := .word w) fun trace responses => ?_
  rcases nextAnswer_cases s with hok | hfault
  · rw [memWrite_of_ok hok, memWrite_of_ok (s := withPast trace responses s) hok]
    rfl
  · rw [memWrite_of_fault hfault, memWrite_of_fault (s := withPast trace responses s) hfault]
    rfl

theorem appendsOnly_performed (a : Action) (s : State) : AppendsOnly (performed a) s := by
  cases a with
  | word w => exact appendsOnly_memWrite w s
  | deselect | delay _ | setPhase _ _ | setWave _ _ | setSrc _ _ => exact appendsOnly_of_event fun _ _ => rfl
  | finish e => exact appendsOnly_of_response fun _ _ => rfl

theorem appendsOnly_advanced (s : State) : AppendsOnly advanced s := by
  cases htodo : s.todo with
  | nil =>
    refine ⟨[], [], fun trace responses => ?_⟩
    rw [advanced_nil htodo, advanced_nil (s := withPast trace responses s) htodo, List.append_nil, List.append_nil]
  | cons a rest =>
    obtain ⟨events, answered, h⟩ := appendsOnly_performed a { s with todo := rest }
    refine ⟨events, answered, fun trace responses => ?_⟩
    rw [advanced_cons htodo, advanced_cons (s := withPast trace responses s) htodo]
    exact h trace responses

theorem ignoresPast_advance {s t : State} (h : advance s = .next t) : IgnoresPast advance s t := by
  rw [advance_eq] at h
  injection h with h
  exact h ▸ .of_appendsOnly advance_eq (appendsOnly_advanced s)

/-- A command reads its operands, the registers and the parameters. -/
theorem ignoresPast_exec {s t : State} {i : Instr} (hi : isCommand i = true) (h : exec i s = .next t) :
    IgnoresPast (exec i) s t := by
  cases i with
  | begin =>
    replace h : execBegin s = .next t := h
    unfold execBegin at h
    split at h
    · cases h
    · next hbegun =>
      injection h with h
      refine ⟨[.sel true], [], fun trace responses => ?_⟩
      rw [← h, List.append_nil]
      exact if_neg hbegun
  | setfreq ch a | incfreq ch a =>
    refine .whenBegun ?_ h
    cases freqOperand a
    · exact appendsOnly_of_response fun _ _ => rfl
    · exact appendsOnly_of_event fun _ _ => rfl
  | setphase ch a | incphase ch a =>
    refine .whenBegun ?_ h
    cases phaseOperand a
    · exact appendsOnly_of_response fun _ _ => rfl
    · exact appendsOnly_of_event fun _ _ => rfl
  | apply shape fch a pch b =>
    refine .whenBegun ?_ h
    cases freqOperand a
    · exact appendsOnly_of_response fun _ _ => rfl
    · cases phaseOperand b
      · exact appendsOnly_of_response fun _ _ => rfl
      · exact appendsOnly_of_event fun _ _ => rfl
  | reset | setwave _ _ | setsrc _ _ | enout _ | sleep _ | dacoff _ | clkoff _ =>
    exact .whenBegun (appendsOnly_of_event fun _ _ => rfl) h
  | getfreq _ | getphase _ | getres => exact .whenBegun (appendsOnly_answer fun _ _ => rfl) h
  | wFreqCh0 _ | wFreqCh1 _ | wPhaseCh0 _ | wPhaseCh1 _ | wCtrl _ _ _ _ _ _ | wReset => cases hi

theorem ignoresPast_accept {s t : State} {w : CommandWord} (h : accept w s = .next t) : IgnoresPast (accept w) s t := by
  cases hw : decode (.command w) with
  | ok i =>
    rw [funext (accept_ok hw)] at h ⊢
    exact ignoresPast_exec (isCommand_of_decode hw) h
  | error e =>
    rw [accept_error hw] at h
    injection h with h
    exact h ▸ .of_appendsOnly (accept_error hw) (appendsOnly_of_response fun _ _ => rfl)

theorem ignoresPast_construct {s t : State} {refclk : BitVec 32} (h : construct refclk s = .next t) :
    IgnoresPast (construct refclk) s t := by
  unfold construct at h
  split at h
  · cases h
  · next hne =>
    injection h with h
    refine ⟨[.sel false], [], fun trace responses => ?_⟩
    rw [← h, List.append_nil]
    exact if_neg hne

/-! ### The step -/

/-- What the host drives decides which operation the step is, whatever the past. -/
theorem ignoresPast_step {s t : State} (h : step s = .next t) : IgnoresPast step s t := by
  cases hin : s.inputs with
  | nil =>
    rw [step_quiet hin] at h
    exact (ignoresPast_advance h).of_eq (fun _ _ => step_quiet hin)
  | cons input rest =>
    cases input with
    | wait =>
      rw [step_wait hin] at h
      exact (ignoresPast_advance h).of_eq (fun _ _ => step_wait hin)
    | hardReset refclk =>
      rw [step_hardReset hin] at h
      exact (ignoresPast_construct h).of_eq (fun _ _ => step_hardReset hin)
    | command w =>
      by_cases hseq : s.seq = 0
      · rw [step_command_idle hin hseq] at h
        exact (ignoresPast_accept h).of_eq (fun _ _ => step_command_idle hin hseq)
      · rw [step_command_busy hin hseq] at h
        exact (ignoresPast_advance h).of_eq (fun _ _ => step_command_busy hin hseq)

/-- Settles O50: the past of `s` itself is one of the pasts. -/
theorem noStepReadsTheTrace : Obligations.NoStepReadsTheTrace := by
  intro s t trace responses hstep
  obtain ⟨events, answered, h⟩ := ignoresPast_step hstep
  have hown : t = withPast (s.trace ++ events) (s.responses ++ answered) t :=
    Host.Outcome.next.inj (hstep.symm.trans (h s.trace s.responses))
  exact ⟨events, answered, congrArg State.trace hown, congrArg State.responses hown, h trace responses⟩

end Sys2Proof.Machine

/-! The step itself: what it runs (R34, R53, R76), what a busy block leaves at its port (R34), the invariants at reset (R35),
and the runs of the one-channel setters (R23). -/

namespace Sys2Proof.Machine

/-! ### What a step runs -/

/-- The step of a word is `exec` of the instruction the word decodes to. -/
theorem advance_word {s : State} {w : ChannelWord} {rest : List Action} {i : Instr} (htodo : s.todo = .word w :: rest)
    (hw : decode (.channel w) = .ok i) : advance s = exec i { s with todo := rest } := by
  rw [advance_cons htodo, exec_decodeChannel hw]
  rfl

/-- Settles O9, by the equations of a step. -/
theorem stepRunsTheDecodedInstruction : Obligations.StepRunsTheDecodedInstruction := by
  refine ⟨fun s w rest i hseq hin hw => ?_, fun s w rest i htodo hw => ⟨fun hin => ?_, fun inputs hin => ?_,
    fun c inputs hin hseq => ?_⟩⟩
  · rw [step_command_idle hin hseq, accept_ok hw]
  · rw [step_quiet hin, advance_word htodo hw]
  · rw [step_wait hin, advance_word (s := { s with inputs := inputs }) htodo hw]
  · rw [step_command_busy hin hseq, advance_word htodo hw]

/-! ### The command at the port of a busy block -/

/-- No action reads what the host will do. -/
theorem performed_with_inputs (a : Action) (s : State) (inputs : List Input) :
    performed a { s with inputs := inputs } = { performed a s with inputs := inputs } := by
  cases a with
  | word w =>
    simp only [performed]
    rcases nextAnswer_cases s with hok | hfault
    · rw [memWrite_of_ok hok, memWrite_of_ok (s := { s with inputs := inputs }) hok]
    · rw [memWrite_of_fault hfault, memWrite_of_fault (s := { s with inputs := inputs }) hfault]
  | deselect | delay _ | setPhase _ _ | setWave _ _ | setSrc _ _ | finish _ => rfl

theorem advanced_with_inputs (s : State) (inputs : List Input) :
    advanced { s with inputs := inputs } = { advanced s with inputs := inputs } := by
  cases htodo : s.todo with
  | nil => simp only [advanced, htodo]
  | cons a rest =>
    simp only [advanced, htodo]
    exact performed_with_inputs a { s with todo := rest } inputs

/-- Settles O10: a busy block and a block without a host take the same step, which reads no input. -/
theorem busyBlockLeavesTheCommandAtThePort : Obligations.BusyBlockLeavesTheCommandAtThePort := by
  intro s w rest hin hseq
  refine ⟨advanced { s with inputs := [] }, step_quiet_eq rfl, by simp, ?_⟩
  rw [step_command_busy hin hseq, advance_eq, advanced_with_inputs s []]
  exact congrArg Host.Outcome.next (advanced_with_inputs s s.inputs)

/-! ### Reset -/

/-- Settles O51, on the reset state's own values. -/
theorem invariantsHoldAtReset : Obligations.InvariantsHoldAtReset := by
  refine ⟨⟨configLegal_default, by decide, fun ch => ?_, fun ch => ?_⟩, by decide, by decide, ?_, ?_⟩
  · cases ch <;> decide
  · cases ch <;> decide
  · simp [State.reset, wordsOf]
  · simp [State.reset, pendingWords]

/-! ### Runs of one setter -/

/-- The actions that write registers: the later parts of `APPLY` (R180). -/
def writesRegister : Action → Bool
  | .setPhase _ _ | .setWave _ _ | .setSrc _ _ => true
  | .word _ | .deselect | .delay _ | .finish _ => false

/-- A host that drives nothing, and no register write among what is left to do. -/
def WritesDone (s : State) : Prop := s.inputs = [] ∧ ∀ a ∈ s.todo, writesRegister a = false

/-- The three pairs of cells (R21, R22, R24) are those of `s`. -/
def SameCells (s t : State) : Prop := t.freq = s.freq ∧ t.phase = s.phase ∧ t.wave = s.wave

theorem WritesDone.performed {s : State} {a : Action} (h : WritesDone s) (ha : writesRegister a = false) :
    WritesDone (performed a s) ∧ SameCells s (performed a s) := by
  cases a with
  | word w =>
    refine ⟨⟨by simpa using h.1, ?_⟩, memWrite_freq w s, memWrite_phase w s, memWrite_wave w s⟩
    rcases nextAnswer_cases s with hok | hfault
    · rw [Machine.performed, memWrite_of_ok hok]
      exact h.2
    · rw [Machine.performed, memWrite_of_fault hfault]
      simp [writesRegister]
  | deselect | delay _ | finish _ => exact ⟨h, rfl, rfl, rfl⟩
  | setPhase _ _ | setWave _ _ | setSrc _ _ => cases ha

theorem WritesDone.advanced {s : State} (h : WritesDone s) : WritesDone (advanced s) ∧ SameCells s (advanced s) := by
  cases htodo : s.todo with
  | nil =>
    rw [advanced_nil htodo]
    exact ⟨h, rfl, rfl, rfl⟩
  | cons a rest =>
    obtain ⟨hin, hall⟩ := h
    rw [htodo, List.forall_mem_cons] at hall
    rw [advanced_cons htodo]
    exact WritesDone.performed (s := { s with todo := rest }) ⟨hin, hall.2⟩ hall.1

/-- Once its registers are written, a run leaves the cells alone, whatever the channel answers. -/
theorem WritesDone.runSteps {s u : State} (h : WritesDone s) {n : Nat} (hrun : runSteps n s = .next u) : SameCells s u := by
  induction n generalizing s with
  | zero =>
    rw [runSteps_zero] at hrun
    cases hrun
    exact ⟨rfl, rfl, rfl⟩
  | succ n ih =>
    rw [runSteps_succ n (step_quiet_eq h.1)] at hrun
    obtain ⟨hdone, hfreq, hphase, hwave⟩ := h.advanced
    obtain ⟨hfreq', hphase', hwave'⟩ := ih hdone hrun
    exact ⟨hfreq'.trans hfreq, hphase'.trans hphase, hwave'.trans hwave⟩

/-- A setter of one frequency cell: the cell is written before the run begins. -/
theorem freqSetter_cells {s t : State} {ch : Chan} {a : B32} (hin : s.inputs = []) (htodo : s.todo = [])
    (h : Accepted s (.setfreq ch a) t ∨ Accepted s (.incfreq ch a) t) :
    WritesDone t ∧ t.freq.get ch.other = s.freq.get ch.other ∧ t.phase = s.phase ∧ t.wave = s.wave := by
  obtain h | h := h <;> cases h
  case inl.ended | inr.ended => exact ⟨⟨hin, by simp [htodo]⟩, rfl, rfl, rfl⟩
  case inl.setfreq | inr.incfreq =>
    exact ⟨⟨hin, by simp [setFreqBody_eq, htodo, writesRegister]⟩, Pair.get_set_other s.freq ch _, rfl, rfl⟩

/-- A setter of one phase cell: the cell is written before the run begins. -/
theorem phaseSetter_cells {s t : State} {ch : Chan} {a : B32} (hin : s.inputs = []) (htodo : s.todo = [])
    (h : Accepted s (.setphase ch a) t ∨ Accepted s (.incphase ch a) t) :
    WritesDone t ∧ t.phase.get ch.other = s.phase.get ch.other ∧ t.freq = s.freq ∧ t.wave = s.wave := by
  obtain h | h := h <;> cases h
  case inl.ended | inr.ended => exact ⟨⟨hin, by simp [htodo]⟩, rfl, rfl, rfl⟩
  case inl.setphase | inr.incphase =>
    exact ⟨⟨hin, by simp [setPhaseBody_eq, htodo, writesRegister]⟩, Pair.get_set_other s.phase ch _, rfl, rfl⟩

/-- The setter of one shape cell: the cell is written before the run begins. -/
theorem waveSetter_cells {s t : State} {ch : Chan} {shape : Shape} (hin : s.inputs = []) (htodo : s.todo = [])
    (h : Accepted s (.setwave ch shape) t) :
    WritesDone t ∧ t.wave.get ch.other = s.wave.get ch.other ∧ t.freq = s.freq ∧ t.phase = s.phase := by
  cases h
  case ended => exact ⟨⟨hin, by simp [htodo]⟩, rfl, rfl, rfl⟩
  case setwave =>
    exact ⟨⟨hin, by simp [setWaveBody, writeCtrl_eq, htodo, writesRegister]⟩, Pair.get_set_other s.wave ch _, rfl, rfl⟩

/-- Settles O57: the setter writes its one cell, and the rest of the run writes none. -/
theorem otherChannelIsUntouched : Obligations.OtherChannelIsUntouched := by
  intro s t u ch n _ htodo hin hrun
  refine ⟨fun ⟨a, hexec⟩ => ?_, fun ⟨a, hexec⟩ => ?_, fun ⟨shape, hexec⟩ => ?_⟩
  · obtain ⟨hdone, hother, hphase, hwave⟩ :=
      freqSetter_cells hin htodo (hexec.imp (accepted_of_exec rfl) (accepted_of_exec rfl))
    obtain ⟨hfreq', hphase', hwave'⟩ := hdone.runSteps hrun
    exact ⟨hfreq' ▸ hother, hphase'.trans hphase, hwave'.trans hwave⟩
  · obtain ⟨hdone, hother, hfreq, hwave⟩ :=
      phaseSetter_cells hin htodo (hexec.imp (accepted_of_exec rfl) (accepted_of_exec rfl))
    obtain ⟨hfreq', hphase', hwave'⟩ := hdone.runSteps hrun
    exact ⟨hphase' ▸ hother, hfreq'.trans hfreq, hwave'.trans hwave⟩
  · obtain ⟨hdone, hother, hfreq, hphase⟩ := waveSetter_cells hin htodo (accepted_of_exec rfl hexec)
    obtain ⟨hfreq', hphase', hwave'⟩ := hdone.runSteps hrun
    exact ⟨hwave' ▸ hother, hfreq'.trans hfreq, hphase'.trans hphase⟩

end Sys2Proof.Machine

/-! The select line (R53, R66, R243): every word stands inside a frame. And the bytes of one word on the wire (R61). -/

namespace Sys2Proof.Machine

/-! ### The line and what is left to do -/

theorem lineState_concat (events : List Event) (e : Event) :
    lineState (events ++ [e]) = lineAfter (lineState events) e :=
  List.foldl_concat ..

theorem frameOpen_of_insideFrame {room : Nat} {l : List Action} (h : insideFrame room l = true) : frameOpen l = true := by
  cases l with
  | nil => cases h
  | cons a l =>
    cases a with
    | word _ | deselect => rfl
    | delay _ | setPhase _ _ | setWave _ _ | setSrc _ _ | finish _ => cases h

theorem frameOpen_of_betweenFrames {l : List Action} (h : betweenFrames l = true) : frameOpen l = false := by
  cases l with
  | nil => rfl
  | cons a l =>
    cases a with
    | word _ | deselect => cases h
    | delay _ | setPhase _ _ | setWave _ _ | setSrc _ _ | finish _ => rfl

theorem frameOpen_frame (ws : List ChannelWord) (rest : List Action) :
    frameOpen (ws.map .word ++ .deselect :: rest) = true := by
  cases ws <;> rfl

/-! ### The invariant -/

/-- A step that appends one event keeps the invariant where the event leaves the line as what is left to do needs it. -/
theorem framingOk_of_event {s t : State} {e : Event} (htrace : t.trace = s.trace ++ [e])
    (hline : lineAfter (lineState s.trace) e = some (frameOpen t.todo)) : FramingOk t := by
  rw [FramingOk, htrace, lineState_concat, hline]

/-- A frame opens on an inactive line. -/
theorem framingOk_openFrame {s : State} (hline : lineState s.trace = some false) (ws : List ChannelWord) :
    FramingOk (openFrame ws s) :=
  framingOk_of_event (openFrame_trace ws s) (by rw [hline, openFrame_todo, frameOpen_frame]; rfl)

/-- A word keeps the line active, and what is left still has to release it: the rest of the frame on `Ok`, the `Sel(false)` of
the fault entry on `Fault`. -/
theorem framingOk_memWrite {w : ChannelWord} {s : State} (hline : lineState s.trace = some true)
    (hopen : frameOpen s.todo = true) : FramingOk (memWrite w s) := by
  refine framingOk_of_event (memWrite_trace w s) ?_
  rw [hline]
  rcases nextAnswer_cases s with hok | hfault
  · rw [memWrite_of_ok hok]
    exact congrArg some hopen.symm
  · rw [memWrite_of_fault hfault]
    rfl

/-- One action of a running operation, what is left after it in `s.todo`: the line is where the action needs it, and goes where
what is left needs it. -/
theorem framingOk_performed {s : State} {a : Action} {room : Nat}
    (h : insideFrame room (a :: s.todo) = true ∨ betweenFrames (a :: s.todo) = true)
    (hline : lineState s.trace = some (frameOpen (a :: s.todo))) : FramingOk (performed a s) := by
  cases a with
  | word w =>
    simp only [insideFrame, betweenFrames, Bool.and_eq_true, Bool.false_eq_true, or_false] at h
    exact framingOk_memWrite hline (frameOpen_of_insideFrame h.2)
  | deselect | delay _ =>
    have hrest : betweenFrames s.todo = true := by simpa [insideFrame, betweenFrames] using h
    refine framingOk_of_event rfl ?_
    rw [hline]
    exact congrArg some (frameOpen_of_betweenFrames hrest).symm
  | setPhase _ _ | setWave _ _ | setSrc _ _ =>
    refine framingOk_openFrame ?_ _
    exact hline
  | finish e =>
    have htodo : s.todo = [] := by
      cases ht : s.todo with
      | nil => rfl
      | cons b l => simp [ht, insideFrame, betweenFrames] at h
    rw [FramingOk, performed, finish_trace, finish_todo, htodo]
    exact hline

/-- An accepted command leaves the inactive line alone or opens its first frame. -/
theorem framingOk_accepted {s t : State} {i : Instr} (htodo : s.todo = []) (hline : lineState s.trace = some false)
    (h : Accepted s i t) : FramingOk t := by
  cases h with
  | ended e =>
    rw [FramingOk, finish_trace, finish_todo, htodo]
    exact hline
  | begin | reset | setfreq | incfreq | setphase | incphase | setwave | setsrc | enout | sleep | dacoff | clkoff | apply =>
    refine framingOk_openFrame ?_ _
    exact hline

/-- R231: the `Sel(false)` of a hardware reset fits the line whether or not a frame is open. -/
theorem framingOk_construct {s t : State} {refclk : BitVec 32} {active : Bool} (hline : lineState s.trace = some active)
    (h : construct refclk s = .next t) : FramingOk t := by
  obtain ⟨-, -, -, -, -, -, -, -, -, -, -, -, -, htodo, -, -, -, htrace, -⟩ := construct_next h
  refine framingOk_of_event htrace ?_
  rw [hline, htodo]
  cases active <;> rfl

/-- Settles O54, by the cases of a step; the sequencer invariant says what is left to do. -/
theorem stepKeepsWordsInsideFrames : Obligations.StepKeepsWordsInsideFrames := by
  intro s t hseqOk hline hstep
  have hidle (hseq : s.seq = 0) : s.todo = [] := hseqOk.elim And.right fun h => absurd hseq h.1
  cases stepped_of_step hstep with
  | reset refclk inputs _ h => exact framingOk_construct (s := { s with inputs := inputs }) hline h
  | accepted i inputs _ hseq h =>
    have hinactive : lineState s.trace = some false := by rw [hline, hidle hseq]; rfl
    exact framingOk_accepted (s := { s with inputs := inputs }) (hidle hseq) hinactive h
  | illegal inputs _ => exact hline
  | idle inputs _ => exact hline
  | acted inputs a rest htodo =>
    rw [FramingOk, htodo] at hline
    obtain ⟨-, hnil⟩ | ⟨-, hrest⟩ := hseqOk
    · rw [htodo] at hnil
      cases hnil
    · exact framingOk_performed (s := { s with inputs := inputs, todo := rest }) (htodo ▸ hrest) hline

/-! ### One word on the wire (R61) -/

/-- A word is its high byte times 256 and its low byte. -/
theorem toNat_eq_high_low (w : ChannelWord) :
    w.toNat = 256 * (w.extractLsb' 8 8).toNat + (w.extractLsb' 0 8).toNat := by
  have hw := w.isLt
  simp only [BitVec.extractLsb'_toNat, Nat.shiftRight_eq_div_pow]
  omega

/-- Settles O7: the two bytes are those of `wireBytes`, and the tag bits 15 and 14 are bits 7 and 6 of the first. -/
theorem wireSendsHighByteFirst : Obligations.WireSendsHighByteFirst := by
  intro w
  refine ⟨w.extractLsb' 8 8, w.extractLsb' 0 8, rfl, toNat_eq_high_low w, by simp, by simp⟩

end Sys2Proof.Machine

/-! The decoder on what the encoder writes, and back (R71 to R76, R80 to R84). -/

namespace Sys2Proof

/-! ### Command words (R80 to R84) -/

/-- The decoder of a packed command reads its `OP`; the `RSV` field is 0. -/
theorem decode_packCommand (op : BitVec 8) (en : Bool) (shape : BitVec 2) (ch2 ch : Bool) (a b : B32) :
    decode (.command (packCommand op en shape ch2 ch a b)) = decodeOp op.toNat (packCommand op en shape ch2 ch a b) := by
  simp [decode, decodeCommand]

/-- Settles O3: each operation reads the fields of `decodeOp`, and the encoder's zeros are its own equations. -/
theorem unusedFieldsAreIgnoredAndWrittenZero : Obligations.UnusedFieldsAreIgnoredAndWrittenZero := by
  refine ⟨?_, ?_, ?_, ?_, ?_, ?_, ?_, fun _ _ => rfl, fun _ _ => rfl, fun _ _ => rfl, fun _ _ => rfl, fun _ _ => rfl,
    fun _ _ => rfl, fun _ => ⟨rfl, rfl, rfl, rfl⟩, fun _ _ _ _ _ => rfl, fun _ => ⟨rfl, rfl⟩, rfl, rfl, rfl⟩
  all_goals
    intros
    simp [decode_packCommand, decodeOp]

/-- The sixteen values of `OP` name an operation. -/
theorem exists_decodeOp {op : Nat} (h : op < 16) (w : CommandWord) : ∃ i, decodeOp op w = .ok i := by
  interval_cases op <;> exact ⟨_, rfl⟩

theorem decodeOp_reserved {op : Nat} (h : 16 ≤ op) (w : CommandWord) : decodeOp op w = .error .reservedOp := by
  obtain ⟨n, rfl⟩ := Nat.exists_eq_add_of_le' h
  rfl

/-- Settles O4, by the two fields that `decodeCommand` looks at. -/
theorem commandDecodingIsTotal : Obligations.CommandDecodingIsTotal := by
  intro w
  show ((opField w).toNat < 16 ∧ rsvField w = 0 → _) ∧ (16 ≤ (opField w).toNat ∨ rsvField w ≠ 0 → _)
  simp only [decode, decodeCommand]
  by_cases hrsv : rsvField w = 0
  · simp only [hrsv, if_true]
    refine ⟨fun ⟨hop, _⟩ => ?_, fun h => ⟨_, decodeOp_reserved (h.resolve_right (by simp)) w⟩⟩
    obtain ⟨i, hi⟩ := exists_decodeOp hop w
    exact ⟨i, hi, Machine.isCommand_of_decodeOp hi⟩
  · simp only [hrsv, if_false]
    exact ⟨fun ⟨_, h⟩ => h.elim, fun _ => ⟨_, rfl⟩⟩

/-! ### Channel words (R71 to R76) -/

/-- A masked comparison decides every comparison under a smaller mask. -/
theorem and_of_and_submask {n : Nat} {w m v : BitVec n} (h : w &&& m = v) {m' : BitVec n} (hm : m &&& m' = m') :
    w &&& m' = v &&& m' := by
  rw [← h, BitVec.and_assoc, hm]

theorem extractLsb'_freqWord (ch : Chan) (half : BitVec 14) : (freqWord ch half).extractLsb' 0 14 = half := by
  ext i hi
  cases ch <;> interval_cases i <;> simp [freqWord, ftag]

theorem decodeChannel_freqWord_ch0 (half : BitVec 14) : decodeChannel (freqWord .ch0 half) = .ok (.wFreqCh0 half) := by
  have htag : freqWord .ch0 half &&& 0xC000 = 0x4000 := (Laws.MatchesRow.wFreqCh0 half).2
  rw [decodeChannel, htag, extractLsb'_freqWord]
  rfl

theorem decodeChannel_freqWord_ch1 (half : BitVec 14) : decodeChannel (freqWord .ch1 half) = .ok (.wFreqCh1 half) := by
  have htag : freqWord .ch1 half &&& 0xC000 = 0x8000 := (Laws.MatchesRow.wFreqCh1 half).2
  rw [decodeChannel, htag, extractLsb'_freqWord]
  rfl

theorem extractLsb'_phaseWord (ch : Chan) (pw : BitVec 12) : (phaseWord ch pw).extractLsb' 0 12 = pw := by
  ext i hi
  interval_cases i <;> simp [phaseWord]

theorem decodeChannel_phaseWord_ch0 (pw : BitVec 12) : decodeChannel (phaseWord .ch0 pw) = .ok (.wPhaseCh0 pw) := by
  have htop : phaseWord .ch0 pw &&& 0xF000 = 0xC000 := (Laws.MatchesRow.wPhaseCh0 pw).2
  have htag := and_of_and_submask (m' := 0xC000) htop rfl
  rw [decodeChannel, htag, htop, extractLsb'_phaseWord]
  rfl

theorem decodeChannel_phaseWord_ch1 (pw : BitVec 12) : decodeChannel (phaseWord .ch1 pw) = .ok (.wPhaseCh1 pw) := by
  have htop : phaseWord .ch1 pw &&& 0xF000 = 0xE000 := (Laws.MatchesRow.wPhaseCh1 pw).2
  have htag := and_of_and_submask (m' := 0xC000) htop rfl
  rw [decodeChannel, htag, htop, extractLsb'_phaseWord]
  rfl

theorem shapePattern_ctrlWord (fsel psel : Chan) (rst clkd dacd : Bool) (shape : BitVec 3) :
    shapePattern (ctrlWord fsel psel rst clkd dacd shape) = shape := by
  ext i hi
  interval_cases i <;> simp [ctrlWord, shapeMask]

/-- A control word with a shape pattern of R76 decodes to its fields: its fixed bits exclude the tags and the RESET word. -/
theorem decodeChannel_ctrlWord (fsel psel : Chan) (rst clkd dacd : Bool) {shape : BitVec 3}
    (hshape : shapePatterns.contains shape = true) :
    decodeChannel (ctrlWord fsel psel rst clkd dacd shape) = .ok (.wCtrl fsel psel rst clkd dacd shape) := by
  have hfix : ctrlWord fsel psel rst clkd dacd shape &&& 0xF215 = 0x2000 :=
    (Laws.MatchesRow.wCtrl fsel psel rst clkd dacd shape).2
  have htag := and_of_and_submask (m' := 0xC000) hfix rfl
  have htop := and_of_and_submask (m' := 0xF000) hfix rfl
  have hreset : ctrlWord fsel psel rst clkd dacd shape ≠ 0x0100 := by
    intro h
    rw [h] at hfix
    cases hfix
  rw [decodeChannel, htag, htop, if_neg hreset, hfix, shapePattern_ctrlWord, if_pos (⟨rfl, hshape⟩ : _ ∧ _)]
  simp [ctrlWord, shapeMask]

/-- R80 to R84, R71 to R76: the decoder undoes the encoder on well-formed instructions. -/
theorem decode_encode {i : Instr} (hi : i.wellFormed = true) : decode (encode i) = .ok i := by
  cases i with
  | wFreqCh0 half => exact decodeChannel_freqWord_ch0 half
  | wFreqCh1 half => exact decodeChannel_freqWord_ch1 half
  | wPhaseCh0 pw => exact decodeChannel_phaseWord_ch0 pw
  | wPhaseCh1 pw => exact decodeChannel_phaseWord_ch1 pw
  | wCtrl fsel psel rst clkd dacd shape => exact decodeChannel_ctrlWord fsel psel rst clkd dacd hi
  | wReset => rfl
  | begin | reset | setfreq | incfreq | setphase | incphase | setwave | setsrc | enout | sleep | dacoff | clkoff
  | apply | getfreq | getphase | getres => simp [encode, decode_packCommand, decodeOp]

/-- Settles O1, by the operation of a packed command and the fixed bits of each channel word. -/
theorem decodeEncodeGivesInstructionBack : Obligations.DecodeEncodeGivesInstructionBack :=
  fun _ hi => decode_encode hi

/-- Settles O2, by the tests of the classification table: each leaves a word that its fields write again. -/
theorem channelWordDecodesToItself : Obligations.ChannelWordDecodesToItself := by
  intro w i hi
  replace hi : decodeChannel w = .ok i := hi
  unfold decodeChannel at hi
  split at hi
  · next h => cases hi; exact ⟨congrArg Code.channel (freqWord_extract .ch0 h), rfl⟩
  split at hi
  · next h => cases hi; exact ⟨congrArg Code.channel (freqWord_extract .ch1 h), rfl⟩
  split at hi
  · next h => cases hi; exact ⟨congrArg Code.channel (phaseWord_extract .ch0 h), rfl⟩
  split at hi
  · next h => cases hi; exact ⟨congrArg Code.channel (phaseWord_extract .ch1 h), rfl⟩
  split at hi
  · next h => cases hi; exact ⟨congrArg Code.channel h.symm, rfl⟩
  split at hi
  · next h => cases hi; exact ⟨congrArg Code.channel (ctrlWord_extract h.1), h.2⟩
  · cases hi

/-- Settles O5, by running the decoder on the thirteen words. -/
theorem wordsWrittenOutDecode : Obligations.WordsWrittenOutDecode := by
  unfold Obligations.WordsWrittenOutDecode
  decide

end Sys2Proof

/-! The emitted words as numbers, and the control image as a control word (R71 to R75, R108, R110). -/

namespace Sys2Proof

/-! ### Words as sums of their fields -/

/-- A tag above the low `n` bits, and a field in them, add up. -/
theorem tag_or_setWidth {n : Nat} (t : Nat) (x : BitVec n) :
    BitVec.ofNat 16 (2 ^ n * t) ||| x.setWidth 16 = BitVec.ofNat 16 (2 ^ n * t + x.toNat) := by
  rw [Nat.two_pow_add_eq_or_of_lt x.isLt, BitVec.ofNat_or, BitVec.ofNat_toNat]

theorem freqWord_ch0_eq (half : BitVec 14) : freqWord .ch0 half = BitVec.ofNat 16 (0x4000 + half.toNat) :=
  tag_or_setWidth 1 half

theorem freqWord_ch1_eq (half : BitVec 14) : freqWord .ch1 half = BitVec.ofNat 16 (0x8000 + half.toNat) :=
  tag_or_setWidth 2 half

theorem phaseWord_ch0_eq (pw : BitVec 12) : phaseWord .ch0 pw = BitVec.ofNat 16 (0xC000 + pw.toNat) :=
  tag_or_setWidth 12 pw

theorem phaseWord_ch1_eq (pw : BitVec 12) : phaseWord .ch1 pw = BitVec.ofNat 16 (0xE000 + pw.toNat) :=
  tag_or_setWidth 14 pw

/-- A flag put into a clear bit is added. -/
theorem or_flagWord_shift {w : ChannelWord} {k : Nat} (b : Bool) (hw : w.getLsbD k = false) :
    w ||| (flagWord b <<< k) = w + BitVec.ofNat 16 (b.toNat * 2 ^ k) := by
  have hsum : BitVec.ofNat 16 (b.toNat * 2 ^ k) = flagWord b <<< k := by
    apply BitVec.eq_of_toNat_eq
    cases b <;> simp [flagWord, Nat.shiftLeft_eq]
  rw [hsum, BitVec.add_eq_or_of_and_eq_zero]
  ext i hi
  by_cases hik : i = k
  · subst hik
    rw [BitVec.getLsbD_eq_getElem hi] at hw
    simp [hw]
  · simpa using fun _ hle hzero => absurd hzero (by omega)

/-- R73: a control word is the sum of its set bits. -/
theorem ctrlWord_eq (fsel psel : Chan) (rst clkd dacd : Bool) (shape : BitVec 3) :
    ctrlWord fsel psel rst clkd dacd shape =
      BitVec.ofNat 16 (0x2000 + fsel.toBit.toNat * 2 ^ 11 + psel.toBit.toNat * 2 ^ 10 + rst.toNat * 2 ^ 8
        + clkd.toNat * 2 ^ 7 + dacd.toNat * 2 ^ 6 + (shape.getLsbD 2).toNat * 2 ^ 5 + (shape.getLsbD 1).toNat * 2 ^ 3
        + (shape.getLsbD 0).toNat * 2) := by
  have hflags : ctrlWord fsel psel rst clkd dacd shape =
      BitVec.ofNat 16 0x2000 ||| (flagWord (shape.getLsbD 2) <<< 5 ||| flagWord (shape.getLsbD 1) <<< 3 |||
        flagWord (shape.getLsbD 0) <<< 1) ||| flagWord fsel.toBit <<< 11 ||| flagWord psel.toBit <<< 10 |||
        flagWord rst <<< 8 ||| flagWord clkd <<< 7 ||| flagWord dacd <<< 6 := rfl
  rw [hflags, ← BitVec.or_assoc, ← BitVec.or_assoc]
  rw [or_flagWord_shift dacd (by simp), or_flagWord_shift clkd (by simp), or_flagWord_shift rst (by simp),
    or_flagWord_shift psel.toBit (by simp), or_flagWord_shift fsel.toBit (by simp),
    or_flagWord_shift (shape.getLsbD 0) (by simp), or_flagWord_shift (shape.getLsbD 1) (by simp),
    or_flagWord_shift (shape.getLsbD 2) (by simp)]
  simp only [← BitVec.ofNat_add]
  congr 1
  ring

end Sys2Proof

namespace Sys2Proof.Machine

/-- Settles O20, by the sum of tag and field; the sum stays below `2^16`. -/
theorem phaseWordFormat : Obligations.PhaseWordFormat := by
  refine ⟨fun p => ?_, by decide, by decide, by decide⟩
  have hpw := (pw p).isLt
  rw [pword, pword, phaseWord_ch0_eq, phaseWord_ch1_eq, BitVec.toNat_ofNat, BitVec.toNat_ofNat]
  omega

/-! ### One emitted word (R13, R53) -/

/-- An instruction that is one `MemWrite` of a word does what the answer to the word says. -/
theorem writesWord_of_exec {i : Instr} {w : ChannelWord} (h : ∀ s, exec i s = .next (memWrite w s)) : WritesWord i w := by
  intro s
  simp only [h]
  refine ⟨fun hc => ?_, fun ha => ?_, fun hc ha => ?_, fun _ _ => ?_⟩
  · rw [memWrite_of_ok (nextAnswer_cannot_fault hc)]
  · obtain ⟨rest, ha⟩ := List.head?_eq_some_iff.1 ha
    rw [memWrite_of_ok (nextAnswer_ok_given ha)]
  · obtain ⟨rest, ha⟩ := List.head?_eq_some_iff.1 ha
    rw [memWrite_of_fault (nextAnswer_given ha hc)]
  · exact (nextAnswer_cases s).imp (fun hok => by rw [memWrite_of_ok hok]) fun hfault => by rw [memWrite_of_fault hfault]

/-- Settles O37: each emitted word is one `MemWrite`, of the sum of its fields. -/
theorem emittedWordsComplete : Obligations.EmittedWordsComplete := by
  refine ⟨fun half => ⟨?_, ?_⟩, fun pw => ⟨?_, ?_⟩, fun fsel psel rst clkd dacd shape => ?_, ?_⟩
  · rw [← freqWord_ch0_eq]; exact writesWord_of_exec fun _ => rfl
  · rw [← freqWord_ch1_eq]; exact writesWord_of_exec fun _ => rfl
  · rw [← phaseWord_ch0_eq]; exact writesWord_of_exec fun _ => rfl
  · rw [← phaseWord_ch1_eq]; exact writesWord_of_exec fun _ => rfl
  · rw [← ctrlWord_eq]; exact writesWord_of_exec fun _ => rfl
  · exact writesWord_of_exec fun _ => rfl

/-! ### The control image (R110) -/

/-- A mask confined to bits 5, 3, 1 is its pattern put back in place. -/
theorem shapeMask_shapePattern {m : ChannelWord} (h : m &&& 0x002A = m) : shapeMask (shapePattern m) = m := by
  have hb := mask_bit h
  apply BitVec.eq_of_getLsbD_eq
  intro i hi
  have hi' := hb i
  interval_cases i <;> simp_all [shapeMask]

/-- R110: the control image is the control word of the state's fields, where the active shape's mask is confined to bits 5, 3,
1. -/
theorem ctrl_eq_ctrlWord {s : State}
    (h : s.cfg.shapeBits.mask (s.wave.get s.afc) &&& 0x002A = s.cfg.shapeBits.mask (s.wave.get s.afc)) :
    ctrl s = ctrlWord s.afc s.apc (!s.oe) s.clkdis s.dacdis (shapePattern (s.cfg.shapeBits.mask (s.wave.get s.afc))) := by
  rw [ctrlWord, shapeMask_shapePattern h]
  rfl

/-- Settles O25, by the bits of a control word. -/
theorem controlImageBits : Obligations.ControlImageBits := by
  rintro s ⟨-, -, -, hmask, -⟩
  rw [ctrl_eq_ctrlWord (hmask _)]
  simp [ctrlWord, shapeMask]

/-! ### Responses and assembler lines (R86, R89) -/

theorem Response.status_word (r : Response) : r.word.extractLsb' 32 2 = r.status.code := BitVec.extractLsb'_append_eq_left

theorem Response.value_word (r : Response) : r.word.extractLsb' 0 32 = r.value := BitVec.extractLsb'_append_eq_right

/-- Settles O6, by the two fields of a response word. -/
theorem responseWordLayout : Obligations.ResponseWordLayout := by
  intro v k
  simp only [Response.status_word, Response.value_word]
  exact ⟨rfl, rfl, rfl, rfl, rfl, rfl, rfl, rfl⟩

theorem Literal.bits_zero : (Literal.decimal 0 1).bits = 0x00000000 := by
  rw [Literal.bits, zero_mul, rnd32Quot_zero]

/-- Settles O8: 0.0 degrees is the pattern 0. -/
theorem assemblerFillsInDefaults : Obligations.AssemblerFillsInDefaults := by
  intro shape fch pch hz
  simp [AsmLine.code, AsmLine.instr, Literal.bits_zero]

end Sys2Proof.Machine

/-! Under the default shape table and RESET word only words of the six formats are sent (R76). -/

namespace Sys2Proof.Machine

/-! ### Which words have a format -/

/-- The code word of a well-formed instruction of the channel has a format. -/
theorem emittable_of_encode {i : Instr} {w : ChannelWord} (hi : i.wellFormed = true) (hw : encode i = .channel w) :
    emittable w = true := by
  rw [emittable, ← hw, decode_encode hi]

theorem emittable_freqWord (ch : Chan) (half : BitVec 14) : emittable (freqWord ch half) = true := by
  cases ch with
  | ch0 => exact emittable_of_encode (i := .wFreqCh0 half) rfl rfl
  | ch1 => exact emittable_of_encode (i := .wFreqCh1 half) rfl rfl

theorem emittable_pword (ch : Chan) (p : B32) : emittable (pword ch p) = true := by
  cases ch with
  | ch0 => exact emittable_of_encode (i := .wPhaseCh0 (pw p)) rfl rfl
  | ch1 => exact emittable_of_encode (i := .wPhaseCh1 (pw p)) rfl rfl

/-- The default masks are confined to bits 5, 3, 1, and their patterns are those of R76. -/
theorem emittable_ctrl {s : State} (h : s.cfg.shapeBits = Config.default.shapeBits) : emittable (ctrl s) = true := by
  have hmask (shape : Shape) : Config.default.shapeBits.mask shape &&& 0x002A = Config.default.shapeBits.mask shape := by
    cases shape <;> rfl
  have hpattern (shape : Shape) : shapePatterns.contains (shapePattern (Config.default.shapeBits.mask shape)) = true := by
    cases shape <;> rfl
  rw [ctrl_eq_ctrlWord (by rw [h, hmask]), h]
  exact emittable_of_encode (i := .wCtrl _ _ _ _ _ _) (hpattern _) rfl

theorem emittable_resetWord : emittable Config.default.resetWord = true :=
  emittable_of_encode (i := .wReset) rfl rfl

/-! ### Steps that send and prepare words with a format -/

theorem wordsOf_append (t u : List Event) : wordsOf (t ++ u) = wordsOf t ++ wordsOf u := by
  induction t with
  | nil => rfl
  | cons e t ih => cases e <;> simp [wordsOf, ih]

section Steps

variable {s : State}

theorem wordsOk_openFrame (h : WordsOk s) {ws : List ChannelWord} (hws : ∀ w ∈ ws, emittable w = true) :
    WordsOk (openFrame ws s) := by
  obtain ⟨hsent, hpending⟩ := h
  refine ⟨by simpa [wordsOf_append, wordsOf] using hsent, ?_⟩
  rw [openFrame_todo, pendingWords_frame]
  simpa [or_imp, forall_and] using ⟨hws, hpending⟩

/-- The word written had a format; on `Fault` no word is left. -/
theorem wordsOk_memWrite (h : WordsOk s) {w : ChannelWord} (hw : emittable w = true) : WordsOk (memWrite w s) := by
  obtain ⟨hsent, hpending⟩ := h
  refine ⟨by simpa [wordsOf_append, wordsOf, or_imp, forall_and] using ⟨hsent, hw⟩, ?_⟩
  rcases nextAnswer_cases s with hok | hfault
  · rw [memWrite_of_ok hok]
    exact hpending
  · rw [memWrite_of_fault hfault]
    simp [pendingWords]

theorem wordsOk_emit (h : WordsOk s) {e : Event} (he : wordsOf [e] = []) : WordsOk (emit e s) := by
  obtain ⟨hsent, hpending⟩ := h
  exact ⟨by simpa [wordsOf_append, he] using hsent, hpending⟩

theorem wordsOk_setPhaseBody (h : WordsOk s) (ch : Chan) (x : Int) : WordsOk (setPhaseBody ch x s) :=
  wordsOk_openFrame (s := { s with phase := s.phase.set ch (normP x) }) h (by simp [emittable_pword])

theorem wordsOk_writeCtrl (hshape : s.cfg.shapeBits = Config.default.shapeBits) (h : WordsOk s) : WordsOk (writeCtrl s) :=
  wordsOk_openFrame h (by simp [emittable_ctrl hshape])

theorem wordsOk_setFreqBody (hshape : s.cfg.shapeBits = Config.default.shapeBits) (h : WordsOk s) (ch : Chan) (x : XReal) :
    WordsOk (setFreqBody ch x s) :=
  wordsOk_openFrame (s := { s with freq := s.freq.set ch (rnd32 (clampF s.cfg x : Int)) }) h
    (by simp [emittable_ctrl, hshape, freqLow, freqHigh, emittable_freqWord])

theorem wordsOk_resetBody (hword : s.cfg.resetWord = Config.default.resetWord) (h : WordsOk s) : WordsOk (resetBody s) :=
  wordsOk_openFrame (s := { s with todo := .delay s.cfg.resetSettleMs :: s.todo }) h
    (by simp [hword, emittable_resetWord])

theorem wordsOk_performed (hshape : s.cfg.shapeBits = Config.default.shapeBits) (h : WordsOk s) {a : Action}
    {rest : List Action} (htodo : s.todo = a :: rest) : WordsOk (performed a { s with todo := rest }) := by
  obtain ⟨hsent, hpending⟩ := h
  rw [htodo] at hpending
  cases a with
  | word w =>
    rw [pendingWords, List.forall_mem_cons] at hpending
    exact wordsOk_memWrite (s := { s with todo := rest }) ⟨hsent, hpending.2⟩ hpending.1
  | deselect => exact wordsOk_emit (s := { s with todo := rest }) ⟨hsent, hpending⟩ rfl
  | delay ms => exact wordsOk_emit (s := { s with todo := rest }) ⟨hsent, hpending⟩ rfl
  | setPhase ch x => exact wordsOk_setPhaseBody (s := { s with todo := rest }) ⟨hsent, hpending⟩ ch x
  | setWave ch shape =>
    exact wordsOk_writeCtrl (s := { s with todo := rest, wave := s.wave.set ch shape }) hshape ⟨hsent, hpending⟩
  | setSrc fch pch =>
    exact wordsOk_writeCtrl (s := { s with todo := rest, afc := fch, apc := pch }) hshape ⟨hsent, hpending⟩
  | finish e => exact ⟨hsent, hpending⟩

/-- An accepted command ends at once, or opens a frame of words with a format. -/
theorem wordsOk_accepted (hshape : s.cfg.shapeBits = Config.default.shapeBits)
    (hword : s.cfg.resetWord = Config.default.resetWord) (h : WordsOk s) {t : State} {i : Instr} (hacc : Accepted s i t) :
    WordsOk t := by
  cases hacc with
  | ended e => exact h
  | begin => exact wordsOk_resetBody (s := thenDone { s with begun := true }) hword h
  | reset => exact wordsOk_resetBody (s := thenDone s) hword h
  | setfreq x _ => exact wordsOk_setFreqBody (s := thenDone s) hshape h _ x
  | incfreq d _ => exact wordsOk_setFreqBody (s := thenDone s) hshape h _ _
  | apply x y _ _ =>
    refine wordsOk_setFreqBody (s := { thenDone s with todo := _ }) ?_ ?_ _ x
    · exact hshape
    · exact h
  | setphase x _ => exact wordsOk_setPhaseBody (s := thenDone s) h _ x
  | incphase d _ => exact wordsOk_setPhaseBody (s := thenDone s) h _ _
  | setwave => exact wordsOk_writeCtrl (s := { thenDone s with wave := s.wave.set _ _ }) hshape h
  | setsrc => exact wordsOk_writeCtrl (s := { thenDone s with afc := _, apc := _ }) hshape h
  | @enout en => exact wordsOk_writeCtrl (s := thenDone { s with oe := en }) hshape h
  | @sleep en => exact wordsOk_writeCtrl (s := thenDone { s with dacdis := en, clkdis := en }) hshape h
  | @dacoff en => exact wordsOk_writeCtrl (s := thenDone { s with dacdis := en }) hshape h
  | @clkoff en => exact wordsOk_writeCtrl (s := thenDone { s with clkdis := en }) hshape h

end Steps

/-- Settles O55, by the cases of a step. -/
theorem stepSendsOnlyTheSixFormats : Obligations.StepSendsOnlyTheSixFormats := by
  intro s t hshape hword hs hstep
  cases stepped_of_step hstep with
  | reset refclk inputs _ h =>
    obtain ⟨-, -, -, -, -, -, -, -, -, -, -, -, -, htodo, -, -, -, htrace, -⟩ := construct_next h
    exact ⟨by simpa [htrace, wordsOf_append, wordsOf] using hs.1, by simp [htodo, pendingWords]⟩
  | accepted i inputs _ _ h => exact wordsOk_accepted (s := { s with inputs := inputs }) hshape hword hs h
  | illegal inputs _ => exact hs
  | idle inputs _ => exact hs
  | acted inputs a rest htodo => exact wordsOk_performed (s := { s with inputs := inputs }) hshape hs htodo

end Sys2Proof.Machine

/-! The clamp and the words of a frequency (R100 to R103), and the resolution (R105). -/

namespace Sys2Proof.Machine

/-! ### The clamp (R100) -/

theorem maxFreq_eq {cfg : Config} (h : ConfigLegal cfg) : (maxFreq cfg : Int) = val cfg.maxFreqHz := by
  obtain ⟨-, hmax0, -⟩ := h
  exact Int.toNat_of_nonneg hmax0

/-- R100: the clamp of a real is the nearest number from 0 up to the ceiling. -/
theorem clampF_fin (cfg : Config) (n : Int) : (clampF cfg (.fin n) : Int) = max 0 (min n (maxFreq cfg)) := by
  simp only [clampF]
  split_ifs <;> omega

theorem denote_of_isFinite {a : B32} (h : isFinite a = true) : denote a = .fin (val a) := by
  have hinf : isInf a = false := by simp_all [isFinite, isInf]
  simp [denote, hinf]

theorem denote_of_isInf {a : B32} (h : isInf a = true) : denote a = if signBit a then .negInf else .posInf := by
  simp [denote, h]

theorem val_rnd32_zero : val (rnd32 0) = 0 := by decide

/-- Settles O15: a clamped operand is 0, the ceiling or the operand, each the value of a finite pattern. -/
theorem storedFrequencyIsTheClampedOperand : Obligations.StoredFrequencyIsTheClampedOperand := by
  refine ⟨fun cfg hcfg => ⟨fun n => ?_, maxFreq_eq hcfg, rfl⟩, by decide, by decide, fun cfg a hcfg _ => ?_⟩
  · rw [clampF_fin, maxFreq_eq hcfg]
  obtain ⟨hfin, hsign, -, -⟩ := freqOk_clampF hcfg (denote a)
  obtain ⟨hmaxfin, hmax0, -⟩ := id hcfg
  have hmax := val_rnd32_val hmaxfin
  refine ⟨hfin, hsign, fun hinf hs => ?_, fun hinf hs => ?_, fun ha hlt => ?_, fun ha hlt => ?_, fun ha h0 hle => ?_⟩
  · rw [denote_of_isInf hinf, hs]
    show val (rnd32 (maxFreq cfg : Int)) = val cfg.maxFreqHz
    rw [maxFreq_eq hcfg, hmax]
  · rw [denote_of_isInf hinf, hs]
    exact val_rnd32_zero
  · rw [denote_of_isFinite ha, clampF_fin, max_eq_left (by omega), val_rnd32_zero]
  · rw [denote_of_isFinite ha, clampF_fin, maxFreq_eq hcfg, min_eq_right hlt.le, max_eq_right hmax0, hmax]
  · rw [denote_of_isFinite ha, clampF_fin, maxFreq_eq hcfg, min_eq_left hle, max_eq_right h0, val_rnd32_val ha]

/-! ### The frequency word (R101, R102) -/

theorem unit_pos : 0 < unit := by decide

theorem roundHalfUp_mono {a a' : Nat} (h : a ≤ a') (b : Nat) : roundHalfUp a b ≤ roundHalfUp a' b :=
  Nat.div_le_div_right (by omega)

theorem roundHalfUp_mul_right (a b : Nat) {c : Nat} (hc : 0 < c) : roundHalfUp (a * c) (b * c) = roundHalfUp a b := by
  rw [roundHalfUp, roundHalfUp, ← mul_assoc, ← mul_assoc, ← add_mul, Nat.mul_div_mul_right _ _ hc]

theorem roundHalfUp_lt_iff (a n : Nat) {b : Nat} (hb : 0 < b) : roundHalfUp a b < n ↔ 2 * a + b < n * (2 * b) :=
  Nat.div_lt_iff_lt_mul (by omega)

theorem fw_mono (refclk : BitVec 32) {h h' : Nat} (hle : h ≤ h') : fw refclk h ≤ fw refclk h' :=
  roundHalfUp_mono (Nat.mul_le_mul_right _ hle) _

/-- The word of a whole number of hertz is a quotient of whole numbers. -/
theorem fw_whole (refclk : BitVec 32) (hz : Nat) : fw refclk (hz * unit) = roundHalfUp (hz * 2 ^ 28) refclk.toNat := by
  rw [fw, mul_right_comm, roundHalfUp_mul_right _ _ unit_pos, Config.freqWordBits]

theorem toNat_pos_of_ne_zero {refclk : BitVec 32} (h : refclk ≠ 0) : 0 < refclk.toNat := by
  bv_omega

theorem fw_eq_floor {refclk : BitVec 32} (hr : refclk ≠ 0) (h : Nat) :
    (fw refclk h : Int) = ⌊((h : ℚ) / (unit : ℚ)) * 2 ^ 28 / (refclk.toNat : ℚ) + 1 / 2⌋ := by
  have hquot : ((h : ℚ) / (unit : ℚ)) * 2 ^ 28 / (refclk.toNat : ℚ) =
      ((h * 2 ^ 28 : Nat) : ℚ) / ((refclk.toNat * unit : Nat) : ℚ) := by
    push_cast
    ring
  rw [hquot, ← roundHalfUp_eq_floor _ (Nat.mul_pos (toNat_pos_of_ne_zero hr) unit_pos), fw, Config.freqWordBits]

theorem fw_zero {refclk : BitVec 32} (hr : refclk ≠ 0) : fw refclk 0 = 0 := by
  have hpos := Nat.mul_pos (toNat_pos_of_ne_zero hr) unit_pos
  rw [fw, zero_mul]
  exact Nat.div_eq_of_lt (by omega)

/-- Settles O16, by `roundHalfUp` as a floor. -/
theorem frequencyWordFormula : Obligations.FrequencyWordFormula :=
  ⟨fun _ h hr => fw_eq_floor hr h, fun refclk _ _ hle => fw_mono refclk hle, fun _ hr => fw_zero hr, by decide⟩

theorem toNat_fw28 (refclk : BitVec 32) (h : Nat) : (fw28 refclk h).toNat = fw refclk h % 2 ^ 28 :=
  BitVec.toNat_ofNat _ _

theorem maxFreq_default : maxFreq Config.default = 12500000 * unit := by decide

/-- R102: the word of the default ceiling fits in 28 bits exactly from a `REFCLK` of 12500001 on. -/
theorem fw_ceiling_lt_iff {refclk : BitVec 32} (hr : refclk ≠ 0) :
    fw refclk (maxFreq Config.default) < 2 ^ 28 ↔ 12500001 ≤ refclk.toNat := by
  rw [maxFreq_default, fw_whole, roundHalfUp_lt_iff _ _ (toNat_pos_of_ne_zero hr)]
  omega

/-- Settles O17: the largest word is that of the ceiling. -/
theorem frequencyWordFitsFrom12500001 : Obligations.FrequencyWordFitsFrom12500001 := by
  have hlargest : fw 25000000 (maxFreq Config.default) = 2 ^ 27 := by decide
  refine ⟨toNat_fw28, fun refclk hr => ?_, fun h hle => ?_, by rw [toNat_fw28, hlargest]; rfl⟩
  · rw [← fw_ceiling_lt_iff hr]
    exact ⟨fun hall => hall _ le_rfl, fun hlt h hle => (fw_mono refclk hle).trans_lt hlt⟩
  · rw [toNat_fw28, ← hlargest]
    exact (Nat.mod_le _ _).trans (fw_mono _ hle)

/-! ### The half-words (R103) -/

theorem toNat_freqWord (ch : Chan) (half : BitVec 14) : (freqWord ch half).toNat = (ftag ch).toNat + half.toNat := by
  have hhalf := half.isLt
  cases ch with
  | ch0 =>
    rw [freqWord_ch0_eq, BitVec.toNat_ofNat]
    exact Nat.mod_eq_of_lt (by omega)
  | ch1 =>
    rw [freqWord_ch1_eq, BitVec.toNat_ofNat]
    exact Nat.mod_eq_of_lt (by omega)

theorem toNat_freqLow (refclk : BitVec 32) (ch : Chan) (h : Nat) :
    (freqLow refclk ch h).toNat = (ftag ch).toNat + (fw28 refclk h).toNat % 2 ^ 14 := by
  rw [freqLow, toNat_freqWord, BitVec.extractLsb'_toNat, Nat.shiftRight_zero]

theorem toNat_freqHigh (refclk : BitVec 32) (ch : Chan) (h : Nat) :
    (freqHigh refclk ch h).toNat = (ftag ch).toNat + (fw28 refclk h).toNat / 2 ^ 14 := by
  rw [freqHigh, toNat_freqWord, BitVec.extractLsb'_toNat, Nat.shiftRight_eq_div_pow, Nat.mod_eq_of_lt]
  exact Nat.div_lt_of_lt_mul (fw28 refclk h).isLt

/-- Settles O18, by the sum of tag and half. -/
theorem frequencyHalvesAreTagged : Obligations.FrequencyHalvesAreTagged := by
  refine ⟨fun refclk ch h => ?_, by decide, by decide⟩
  cases ch with
  | ch0 => exact ⟨toNat_freqLow refclk .ch0 h, toNat_freqHigh refclk .ch0 h⟩
  | ch1 => exact ⟨toNat_freqLow refclk .ch1 h, toNat_freqHigh refclk .ch1 h⟩

/-! ### The resolution (R105) -/

/-- Settles O23: the quotient is a whole number of units. -/
theorem resolutionIsTheRoundedQuotient : Obligations.ResolutionIsTheRoundedQuotient := by
  refine ⟨fun refclk n hn => ?_, by decide, by decide⟩
  have hunits : n = ((refclk.toNat * 2 ^ 121 : Nat) : Int) := by
    have : (n : ℚ) = ((refclk.toNat * 2 ^ 121 : Nat) : ℚ) := by
      rw [hn, unit]
      push_cast
      ring
    exact_mod_cast this
  rw [resolution, hunits]

end Sys2Proof.Machine

/-! What the control image shows of the state, and what it does not depend on (R110, R113). -/

namespace Sys2Proof

/-- R73: a control word determines its fields. -/
theorem ctrlWord_injective {fsel fsel' psel psel' : Chan} {rst rst' clkd clkd' dacd dacd' : Bool} {shape shape' : BitVec 3}
    (h : ctrlWord fsel psel rst clkd dacd shape = ctrlWord fsel' psel' rst' clkd' dacd' shape') :
    fsel = fsel' ∧ psel = psel' ∧ rst = rst' ∧ clkd = clkd' ∧ dacd = dacd' ∧ shape = shape' := by
  have hbit (i : Nat) := congrArg (fun w => w.getLsbD i) h
  have hfsel : fsel.toBit = fsel'.toBit := by simpa [ctrlWord, shapeMask] using hbit 11
  have hpsel : psel.toBit = psel'.toBit := by simpa [ctrlWord, shapeMask] using hbit 10
  refine ⟨?_, ?_, ?_, ?_, ?_, ?_⟩
  · rw [← Chan.ofBit_toBit fsel, hfsel, Chan.ofBit_toBit]
  · rw [← Chan.ofBit_toBit psel, hpsel, Chan.ofBit_toBit]
  · simpa [ctrlWord, shapeMask] using hbit 8
  · simpa [ctrlWord, shapeMask] using hbit 7
  · simpa [ctrlWord, shapeMask] using hbit 6
  · rw [← shapePattern_ctrlWord fsel psel rst clkd dacd shape, h, shapePattern_ctrlWord]

end Sys2Proof

namespace Sys2Proof.Machine

/-- Settles O26: the image is a control word, which determines its fields, and a legal table the shape from its pattern. -/
theorem controlImageIsInjective : Obligations.ControlImageIsInjective := by
  rintro s t ⟨-, -, hinj, hmask, -⟩ htable himage
  rw [ctrl_eq_ctrlWord (hmask _), ctrl_eq_ctrlWord (by rw [← htable]; exact hmask _), ← htable] at himage
  obtain ⟨hafc, hapc, hoe, hclkdis, hdacdis, hpattern⟩ := ctrlWord_injective himage
  refine ⟨hinj _ _ ?_, hafc, hapc, Bool.not_inj hoe, hclkdis, hdacdis⟩
  rw [← shapeMask_shapePattern (hmask (s.wave.get s.afc)), hpattern, shapeMask_shapePattern (hmask _)]

/-- Settles O27: the image reads the shape of the active channel, which no write to the other channel's cell changes. -/
theorem controlImageHasNoHiddenInput : Obligations.ControlImageHasNoHiddenInput := by
  refine ⟨fun s _ _ shape _ _ _ _ _ _ _ _ _ => ctrl_congr rfl ?_ rfl rfl rfl rfl rfl, rfl⟩
  show (s.wave.set s.afc.other shape).get s.afc = s.wave.get s.afc
  cases s.afc <;> rfl

end Sys2Proof.Machine

/-! Which words a command sends: a released chip needs `OE = 1` and a control image (R238). -/

namespace Sys2Proof.Machine

/-! ### Control images that release the chip (R59, R110) -/

/-- With a legal shape table the image of a state with `OE = 1` has tag `00` and bit 8 clear. -/
theorem releasesReset_ctrl_of_oe {s : State} (hcfg : ConfigLegal s.cfg) (hoe : s.oe = true) :
    releasesReset (ctrl s) = true := by
  obtain ⟨h15, h14, -, -, -, -, -, h8, -⟩ := controlImageBits s hcfg
  rw [releasesReset, beq_iff_eq]
  apply BitVec.eq_of_getLsbD_eq
  intro i hi
  have hmask : (0xC100 : ChannelWord).getLsbD i = true → i = 8 ∨ i = 14 ∨ i = 15 := by
    interval_cases i <;> decide
  rw [BitVec.getLsbD_and]
  cases hm : (0xC100 : ChannelWord).getLsbD i with
  | false => simp
  | true =>
    obtain rfl | rfl | rfl := hmask hm
    · rw [h8, hoe]; rfl
    · rw [h14]; rfl
    · rw [h15]; rfl

/-! ### Runs of the sequencer -/

/-- With `OE` at `oe` the action writes no releasing word and opens no frame with one. -/
def actionHolds (oe : Bool) : Action → Prop
  | .word w => releasesReset w = false
  | .setWave _ _ | .setSrc _ _ => oe = false
  | .deselect | .delay _ | .setPhase _ _ | .finish _ => True

/-- Nothing left to do writes a releasing word. -/
def TodoHolds (s : State) : Prop := ∀ a ∈ s.todo, actionHolds s.oe a

/-- From `s` to `t` words are appended to the trace, none of them a releasing one where nothing left to do in `s` writes one. -/
def SendsHeld (s t : State) : Prop :=
  ∃ words, wordsOf t.trace = wordsOf s.trace ++ words ∧ (TodoHolds s → ∀ w ∈ words, releasesReset w = false)

theorem TodoHolds.openFrame {s : State} (h : TodoHolds s) {ws : List ChannelWord}
    (hws : ∀ w ∈ ws, releasesReset w = false) : TodoHolds (openFrame ws s) := by
  intro a ha
  simp only [openFrame_todo, List.mem_append, List.mem_map, List.mem_cons] at ha
  obtain ⟨w, hw, rfl⟩ | rfl | ha := ha
  · exact hws w hw
  · trivial
  · exact h a ha

theorem TodoHolds.writeCtrl {s : State} (h : TodoHolds s) (hoe : s.oe = false) : TodoHolds (writeCtrl s) :=
  h.openFrame (by simp [releasesReset_ctrl hoe])

theorem TodoHolds.memWrite {s : State} (h : TodoHolds s) (w : ChannelWord) : TodoHolds (memWrite w s) := by
  rcases nextAnswer_cases s with hok | hfault
  · rw [memWrite_of_ok hok]
    exact h
  · rw [memWrite_of_fault hfault]
    simp [TodoHolds, actionHolds]

/-- An action that opens no frame with a releasing word leaves nothing to do that writes one. -/
theorem TodoHolds.performed {s : State} {a : Action} (h : TodoHolds s) (ha : actionHolds s.oe a) :
    TodoHolds (performed a s) := by
  cases a with
  | word w => exact h.memWrite w
  | deselect | delay _ | finish _ => exact h
  | setPhase ch x =>
    exact TodoHolds.openFrame (s := { s with phase := s.phase.set ch (normP x) }) h (by simp [releasesReset_pword])
  | setWave ch shape => exact TodoHolds.writeCtrl (s := { s with wave := s.wave.set ch shape }) h ha
  | setSrc fch pch => exact TodoHolds.writeCtrl (s := { s with afc := fch, apc := pch }) h ha

/-- The words one action writes. -/
def actionWords : Action → List ChannelWord
  | .word w => [w]
  | .deselect | .delay _ | .setPhase _ _ | .setWave _ _ | .setSrc _ _ | .finish _ => []

theorem releasesReset_actionWords {oe : Bool} {a : Action} (h : actionHolds oe a) :
    ∀ w ∈ actionWords a, releasesReset w = false := by
  cases a with
  | word w => exact List.forall_mem_singleton.2 h
  | deselect | delay _ | setPhase _ _ | setWave _ _ | setSrc _ _ | finish _ => simp [actionWords]

theorem wordsOf_performed (a : Action) (s : State) :
    wordsOf (performed a s).trace = wordsOf s.trace ++ actionWords a := by
  cases a with
  | word w => rw [performed, memWrite_trace, wordsOf_append]; rfl
  | finish e => exact (List.append_nil _).symm
  | deselect | delay _ | setPhase _ _ | setWave _ _ | setSrc _ _ => exact wordsOf_append _ _

theorem sendsHeld_advanced (s : State) : SendsHeld s (advanced s) ∧ (TodoHolds s → TodoHolds (advanced s)) := by
  cases htodo : s.todo with
  | nil =>
    rw [advanced_nil htodo]
    exact ⟨⟨[], by simp, by simp⟩, id⟩
  | cons a rest =>
    rw [advanced_cons htodo]
    have hsplit (h : TodoHolds s) : actionHolds s.oe a ∧ TodoHolds { s with todo := rest } := by
      rwa [TodoHolds, htodo, List.forall_mem_cons] at h
    exact ⟨⟨actionWords a, wordsOf_performed _ _, fun h => releasesReset_actionWords (hsplit h).1⟩,
      fun h => (hsplit h).2.performed (hsplit h).1⟩

theorem advanced_oe (s : State) : (advanced s).oe = s.oe := by
  cases htodo : s.todo with
  | nil => rw [advanced_nil htodo]
  | cons a rest => rw [advanced_cons htodo, performed_oe]

/-- However its words are answered, a run with a host that drives nothing keeps `OE` and appends words. -/
theorem sendsHeld_runSteps {s : State} (hin : s.inputs = []) (n : Nat) :
    ∃ u, runSteps n s = .next u ∧ u.oe = s.oe ∧ SendsHeld s u := by
  induction n generalizing s with
  | zero => exact ⟨s, rfl, rfl, [], by simp, by simp⟩
  | succ n ih =>
    obtain ⟨⟨words, hwords, hheld⟩, hkeep⟩ := sendsHeld_advanced s
    obtain ⟨u, hrun, hoe, words', hwords', hheld'⟩ := ih (s := advanced s) (by simpa using hin)
    refine ⟨u, (runSteps_succ n (step_quiet_eq hin)).trans hrun, hoe.trans (advanced_oe s), words ++ words', ?_,
      fun h => ?_⟩
    · rw [hwords', hwords, List.append_assoc]
    · exact List.forall_mem_append.2 ⟨hheld h, hheld' (hkeep h)⟩

/-! ### The first frame of a command -/

/-- The command `i` took an idle block from `s` to `t` and has sent no word yet: a control image comes first if `i` is one of
those that send one, and no releasing word comes if it is not or if `OE = 0`. -/
structure Opened (i : Instr) (s t : State) : Prop where
  cfg : t.cfg = s.cfg
  inputs : t.inputs = []
  words : wordsOf t.trace = wordsOf s.trace
  image_first : sendsControlImage i = true → ∃ rest, t.todo = .word (ctrl t) :: rest
  holds : ¬ (sendsControlImage i = true ∧ t.oe = true) → TodoHolds t

/-- `s'` is `s` with registers written and the rest of the operation put up, before the first event. -/
structure BeforeFrame (s s' : State) : Prop where
  cfg : s'.cfg = s.cfg
  inputs : s'.inputs = []
  trace : s'.trace = s.trace

section Opened

variable {s s' : State} {i : Instr} {ch : Chan} {x : XReal} {y : Int}

theorem opened_finish {e : Ending} (hi : sendsControlImage i = false) (hin : s.inputs = []) (htodo : s.todo = []) :
    Opened i s (finish e s) where
  cfg := rfl
  inputs := hin
  words := rfl
  image_first h := absurd (hi.symm.trans h) Bool.false_ne_true
  holds _ := by simp [TodoHolds, htodo]

variable (hbefore : BeforeFrame s s')

include hbefore

theorem opened_openFrame {ws : List ChannelWord} (himage : sendsControlImage i = true → ∃ rest, ws = ctrl s' :: rest)
    (hholds : ¬ (sendsControlImage i = true ∧ s'.oe = true) → TodoHolds s' ∧ ∀ w ∈ ws, releasesReset w = false) :
    Opened i s (openFrame ws s') where
  cfg := hbefore.cfg
  inputs := hbefore.inputs
  words := by rw [openFrame_trace, hbefore.trace, wordsOf_append, wordsOf, wordsOf, List.append_nil]
  image_first hi := by
    obtain ⟨rest, rfl⟩ := himage hi
    exact ⟨_, rfl⟩
  holds hnot := (hholds hnot).1.openFrame (hholds hnot).2

theorem opened_setFreqBody (hi : sendsControlImage i = true) (htodo : s'.oe = false → TodoHolds s') :
    Opened i s (setFreqBody ch x s') := by
  refine opened_openFrame (s' := { s' with freq := s'.freq.set ch (rnd32 (clampF s'.cfg x : Int)) })
    ⟨hbefore.cfg, hbefore.inputs, hbefore.trace⟩ (fun _ => ⟨_, rfl⟩) fun hnot => ?_
  have hoe : s'.oe = false := Bool.eq_false_iff.2 fun hoe => hnot ⟨hi, hoe⟩
  exact ⟨htodo hoe, by simp [releasesReset_ctrl, hoe, freqLow, freqHigh, releasesReset_freqWord]⟩

theorem opened_setPhaseBody (hi : sendsControlImage i = false) (htodo : TodoHolds s') :
    Opened i s (setPhaseBody ch y s') :=
  opened_openFrame (s' := { s' with phase := s'.phase.set ch (normP y) })
    ⟨hbefore.cfg, hbefore.inputs, hbefore.trace⟩ (fun h => absurd (hi.symm.trans h) Bool.false_ne_true) fun _ =>
      ⟨htodo, by simp [releasesReset_pword]⟩

theorem opened_writeCtrl (hi : sendsControlImage i = true) (htodo : TodoHolds s') : Opened i s (writeCtrl s') := by
  refine opened_openFrame hbefore (fun _ => ⟨_, rfl⟩) fun hnot => ⟨htodo, ?_⟩
  have hoe : s'.oe = false := Bool.eq_false_iff.2 fun hoe => hnot ⟨hi, hoe⟩
  simp [releasesReset_ctrl hoe]

theorem opened_resetBody (hi : sendsControlImage i = false) (hlegal : ConfigLegal s.cfg) (htodo : TodoHolds s') :
    Opened i s (resetBody s') := by
  refine opened_openFrame (s' := { s' with todo := .delay s'.cfg.resetSettleMs :: s'.todo })
    ⟨hbefore.cfg, hbefore.inputs, hbefore.trace⟩ (fun h => absurd (hi.symm.trans h) Bool.false_ne_true)
    fun _ => ⟨?_, ?_⟩
  · exact List.forall_mem_cons.2 ⟨trivial, htodo⟩
  · simp [hbefore.cfg, releasesReset_resetWord hlegal]

end Opened

/-! ### Commands with numeric operands, taken (R140, R141, R150, R151, R180) -/

theorem freqOperand_of_not_isNaN {a : B32} (h : isNaN a = false) : freqOperand a = some (denote a) := by
  simp [freqOperand, h]

theorem phaseOperand_of_isFinite {a : B32} (h : isFinite a = true) : phaseOperand a = some (val a) := by
  simp [phaseOperand, h]

section Exec

variable {s : State} (hbegun : s.begun = true)

include hbegun

theorem exec_setfreq (ch : Chan) {a : B32} (ha : isNaN a = false) :
    exec (.setfreq ch a) s = .next (setFreqBody ch (denote a) (thenDone s)) := by
  rw [exec, execSetfreq, freqOperand_of_not_isNaN ha, whenBegun_of_begun hbegun]

theorem exec_incfreq (ch : Chan) {a : B32} (ha : isNaN a = false) :
    exec (.incfreq ch a) s = .next (setFreqBody ch (addFreq (s.freq.get ch) (denote a)) (thenDone s)) := by
  rw [exec, execIncfreq, freqOperand_of_not_isNaN ha, whenBegun_of_begun hbegun]

theorem exec_setphase (ch : Chan) {a : B32} (ha : isFinite a = true) :
    exec (.setphase ch a) s = .next (setPhaseBody ch (val a) (thenDone s)) := by
  rw [exec, execSetphase, phaseOperand_of_isFinite ha, whenBegun_of_begun hbegun]

theorem exec_incphase (ch : Chan) {a : B32} (ha : isFinite a = true) :
    exec (.incphase ch a) s = .next (setPhaseBody ch (addPhase (s.phase.get ch) (val a)) (thenDone s)) := by
  rw [exec, execIncphase, phaseOperand_of_isFinite ha, whenBegun_of_begun hbegun]

theorem exec_apply (shape : Shape) (fch : Chan) {a : B32} (pch : Chan) {b : B32} (ha : isNaN a = false)
    (hb : isFinite b = true) :
    exec (.apply shape fch a pch b) s = .next (setFreqBody fch (denote a) { thenDone s with
      todo := .setPhase pch (val b) :: .setWave fch shape :: .setSrc fch pch :: (thenDone s).todo }) := by
  rw [exec, execApply, freqOperand_of_not_isNaN ha, phaseOperand_of_isFinite hb, whenBegun_of_begun hbegun]

end Exec

/-- An idle block takes every command whose lifecycle and operands are in order (R202, R206). -/
theorem exists_opened {s : State} {i : Instr} (hlegal : ConfigLegal s.cfg) (htodo : s.todo = []) (hin : s.inputs = [])
    (hi : isCommand i = true) (hops : operandsOk i = true) (hbegun : i = .begin ↔ s.begun = false) :
    ∃ t, exec i s = .next t ∧ Opened i s t := by
  have hdone : TodoHolds (thenDone s) := by simp [TodoHolds, htodo, actionHolds]
  by_cases hfirst : i = .begin
  · subst hfirst
    refine ⟨_, if_neg ?_, opened_resetBody ⟨rfl, hin, rfl⟩ rfl hlegal hdone⟩
    simp [hbegun.1 rfl]
  have hb : s.begun = true := by simpa [hfirst] using hbegun
  cases i with
  | begin => exact absurd rfl hfirst
  | reset => exact ⟨_, whenBegun_of_begun hb _, opened_resetBody ⟨rfl, hin, rfl⟩ rfl hlegal hdone⟩
  | setfreq ch a =>
    exact ⟨_, exec_setfreq hb ch (by simpa [operandsOk] using hops),
      opened_setFreqBody ⟨rfl, hin, rfl⟩ rfl fun _ => hdone⟩
  | incfreq ch a =>
    exact ⟨_, exec_incfreq hb ch (by simpa [operandsOk] using hops),
      opened_setFreqBody ⟨rfl, hin, rfl⟩ rfl fun _ => hdone⟩
  | setphase ch a => exact ⟨_, exec_setphase hb ch hops, opened_setPhaseBody ⟨rfl, hin, rfl⟩ rfl hdone⟩
  | incphase ch a => exact ⟨_, exec_incphase hb ch hops, opened_setPhaseBody ⟨rfl, hin, rfl⟩ rfl hdone⟩
  | setwave ch shape => exact ⟨_, whenBegun_of_begun hb _, opened_writeCtrl ⟨rfl, hin, rfl⟩ rfl hdone⟩
  | setsrc fch pch => exact ⟨_, whenBegun_of_begun hb _, opened_writeCtrl ⟨rfl, hin, rfl⟩ rfl hdone⟩
  | enout en =>
    have hdone' : TodoHolds (thenDone { s with oe := en }) := by simp [TodoHolds, htodo, actionHolds]
    exact ⟨_, whenBegun_of_begun hb _, opened_writeCtrl ⟨rfl, hin, rfl⟩ rfl hdone'⟩
  | sleep en => exact ⟨_, whenBegun_of_begun hb _, opened_writeCtrl ⟨rfl, hin, rfl⟩ rfl hdone⟩
  | dacoff en => exact ⟨_, whenBegun_of_begun hb _, opened_writeCtrl ⟨rfl, hin, rfl⟩ rfl hdone⟩
  | clkoff en => exact ⟨_, whenBegun_of_begun hb _, opened_writeCtrl ⟨rfl, hin, rfl⟩ rfl hdone⟩
  | apply shape fch a pch b =>
    have hoperands : isNaN a = false ∧ isFinite b = true := by simpa [operandsOk] using hops
    refine ⟨_, exec_apply hb shape fch pch hoperands.1 hoperands.2,
      opened_setFreqBody ⟨rfl, hin, rfl⟩ rfl fun hoe => ?_⟩
    exact List.forall_mem_cons.2 ⟨trivial, List.forall_mem_cons.2 ⟨hoe, List.forall_mem_cons.2 ⟨hoe, hdone⟩⟩⟩
  | getfreq ch | getphase ch | getres => exact ⟨_, whenBegun_of_begun hb _, opened_finish rfl hin htodo⟩
  | wFreqCh0 _ | wFreqCh1 _ | wPhaseCh0 _ | wPhaseCh1 _ | wCtrl _ _ _ _ _ _ | wReset => cases hi

/-- A word that stands next is the first one a run writes. -/
theorem runSteps_word {t : State} {w : ChannelWord} {rest : List Action} (hin : t.inputs = [])
    (htodo : t.todo = .word w :: rest) (n : Nat) :
    ∃ u words, runSteps (n + 1) t = .next u ∧ u.oe = t.oe ∧ wordsOf u.trace = wordsOf t.trace ++ w :: words := by
  obtain ⟨u, hrun, hoe, words, hwords, -⟩ := sendsHeld_runSteps (s := advanced t) (by simpa using hin) n
  refine ⟨u, words, (runSteps_succ n (step_quiet_eq hin)).trans hrun, hoe.trans (advanced_oe t), ?_⟩
  rw [hwords, advanced_cons htodo, wordsOf_performed, actionWords, List.append_assoc, List.singleton_append]

/-- Settles O47: with `OE = 1` the control image is the first word, sent before any answer; otherwise nothing left to do writes
a releasing word. -/
theorem releasingWordsNeedOutputEnabled : Obligations.ReleasingWordsNeedOutputEnabled := by
  intro s i hlegal _ htodo hin _ hi hops hbegun
  obtain ⟨t, hexec, hopened⟩ := exists_opened hlegal htodo hin hi hops hbegun
  by_cases himage : sendsControlImage i = true ∧ t.oe = true
  · obtain ⟨rest, hfirst⟩ := hopened.image_first himage.1
    obtain ⟨u, words, hrun, hoe, hwords⟩ := runSteps_word hopened.inputs hfirst 13
    have hreleases := releasesReset_ctrl_of_oe (hopened.cfg ▸ hlegal) himage.2
    exact ⟨t, u, _, hexec, hrun, hopened.words ▸ hwords, by simp [hreleases, hoe, himage]⟩
  · obtain ⟨u, hrun, hoe, words, hwords, hheld⟩ := sendsHeld_runSteps hopened.inputs 14
    refine ⟨t, u, words, hexec, hrun, hopened.words ▸ hwords, iff_of_false ?_ (hoe ▸ himage)⟩
    rintro ⟨w, hw, hreleases⟩
    exact Bool.false_ne_true ((hheld (hopened.holds himage) w hw).symm.trans hreleases)

end Sys2Proof.Machine

/-! The lifecycle: hardware reset (R130, R231), the run of a frame whose words all go through (R53), and what `BEGIN` and
`RESET` do (R131, R132). -/

namespace Sys2Proof.Machine

/-! ### Hardware reset -/

theorem construct_of_ne_zero {refclk : BitVec 32} (h : refclk ≠ 0) (s : State) :
    construct refclk s = .next { State.reset with
      freq := ⟨s.cfg.defaultFreqHz, s.cfg.defaultFreqHz⟩
      refclk := refclk
      cfg := s.cfg
      inputs := s.inputs
      answers := s.answers
      drawn := s.drawn
      trace := s.trace ++ [.sel false]
      responses := s.responses } :=
  if_neg h

/-- Settles O13: the step of a hardware reset is `construct`, whatever the block was doing. -/
theorem hardwareResetFromAnyState : Obligations.HardwareResetFromAnyState := by
  intro s refclk rest hin
  rw [step_hardReset hin]
  refine ⟨?_, fun hne => ?_, fun hcfg => ?_⟩
  · rintro rfl
    exact construct_refused _
  · exact construct_of_ne_zero hne _
  · rw [hcfg]
    rfl

/-! ### A frame whose words all go through -/

/-- `Ok` to one word and then to `n` more. -/
theorem answersOk_succ {n : Nat} {s : State} (h : answersOk (n + 1) s) :
    ∃ answers, s.answers = .ok :: answers ∧ answers.take n = List.replicate n .ok := by
  cases hans : s.answers with
  | nil => simp [answersOk, hans] at h
  | cons a answers =>
    rw [answersOk, hans, List.take_succ_cons, List.replicate_succ, List.cons.injEq] at h
    exact ⟨answers, by rw [h.1], h.2⟩

theorem answersOk_mono {m n : Nat} {s : State} (h : answersOk n s) (hle : m ≤ n) : answersOk m s := by
  rw [answersOk, ← Nat.min_eq_left hle, ← List.take_take, h, List.take_replicate]

/-- A word answered `Ok` by the answers given as an input (R52, R53). -/
theorem advanced_word_of_ok {s : State} {w : ChannelWord} {rest : List Action} {answers : List Answer}
    (htodo : s.todo = .word w :: rest) (hans : s.answers = .ok :: answers) :
    advanced s = { s with
      seq := if wordNext rest then s.seq + 1 else s.seq
      todo := rest
      answers := answers
      trace := s.trace ++ [.word w] } := by
  have hok : nextAnswer { s with todo := rest } = .ok := nextAnswer_ok_given hans
  rw [advanced_cons htodo, performed, memWrite_of_ok hok]
  simp [hans]

/-- The words of an open frame go through one by one, and `Sel(false)` ends it: `SEQ` stands at the last word (R31, R53). -/
theorem runSteps_insideFrame {s : State} (ws : List ChannelWord) {rest : List Action} (hin : s.inputs = [])
    (htodo : s.todo = ws.map .word ++ .deselect :: rest) (hok : answersOk ws.length s) (n : Nat) :
    runSteps (n + 1 + ws.length) s = runSteps n { s with
      seq := s.seq + BitVec.ofNat 2 (ws.length - 1)
      todo := rest
      answers := s.answers.drop ws.length
      trace := s.trace ++ (ws.map .word ++ [.sel false]) } := by
  induction ws generalizing s with
  | nil =>
    rw [List.length_nil, Nat.add_zero, runSteps_succ n (step_quiet_eq hin), advanced_cons htodo]
    simp [performed, emit]
  | cons w ws ih =>
    obtain ⟨answers, hans, hrest⟩ := answersOk_succ hok
    have hword := advanced_word_of_ok htodo hans
    rw [List.length_cons, ← Nat.add_assoc, runSteps_succ _ (step_quiet_eq hin),
      ih (s := advanced s) (by simpa using hin) (by rw [hword]; rfl) (by rw [hword]; exact hrest), hword]
    congr 1
    cases ws with
    | nil => simp [hans]
    | cons v ws => simp [hans, BitVec.ofNat_add, BitVec.add_comm, BitVec.add_assoc]

/-- A frame whose words all go through leaves its events behind and goes on with what was to do after it. -/
theorem runSteps_openFrame {s : State} (ws : List ChannelWord) (hin : s.inputs = []) (hok : answersOk ws.length s)
    (n : Nat) : runSteps (n + 1 + ws.length) (openFrame ws s) = runSteps n { s with
      seq := 1 + BitVec.ofNat 2 (ws.length - 1)
      answers := s.answers.drop ws.length
      trace := s.trace ++ frameEvents ws } := by
  rw [runSteps_insideFrame (s := openFrame ws s) ws hin (openFrame_todo ws s) hok]
  simp [openFrame, emit, frameEvents]

/-! ### `BEGIN` and `RESET` -/

/-- The frame of the RESET word, the settling delay and the end of the command (R131, R132). -/
theorem runSteps_resetBody {s : State} (hseq : s.seq = 0) (htodo : s.todo = []) (hin : s.inputs = [])
    (hok : answersOk 1 s) : runSteps 4 (resetBody (thenDone s)) = .next
      (completed s 1 (frameEvents [s.cfg.resetWord] ++ [.delay s.cfg.resetSettleMs]) 0) :=
  calc runSteps 4 (resetBody (thenDone s))
    _ = runSteps 2 _ := runSteps_openFrame [s.cfg.resetWord] hin hok 2
      (s := { thenDone s with todo := .delay s.cfg.resetSettleMs :: (thenDone s).todo })
    _ = runSteps 1 _ := runSteps_succ 1 (step_quiet_eq hin)
    _ = runSteps 0 _ := runSteps_succ 0 (step_quiet_eq hin)
    _ = _ := by
      rw [runSteps_zero]
      simp [advanced, performed, emit, finish, thenDone, completed, Ending.response, hseq, htodo]

/-- Settles O28: both commands are `resetBody`, `BEGIN` with `BEGUN` set before it. -/
theorem lifecycleCommandsComplete : Obligations.LifecycleCommandsComplete := by
  refine ⟨fun s hbegun => ⟨_, if_neg (by simp [hbegun]), rfl, fun hseq htodo hin hok => ?_⟩,
    fun s hbegun => ⟨_, whenBegun_of_begun hbegun _, rfl, fun ⟨_, hseq, htodo, hin⟩ hok => ?_⟩⟩
  · exact runSteps_resetBody (s := { s with begun := true }) hseq htodo hin hok
  · exact runSteps_resetBody hseq htodo hin hok

end Sys2Proof.Machine

/-! How many words each command sends when no word fails (R248). -/

namespace Sys2Proof.Machine

/-! ### What is left to do, in steps and in words -/

/-- The words an action and the frame it opens send. -/
def wordsDue : Action → Nat
  | .word _ | .setPhase _ _ | .setWave _ _ | .setSrc _ _ => 1
  | .deselect | .delay _ | .finish _ => 0

/-- The steps an action and the frame it opens take: three where it opens a frame of one word. -/
def stepsDue : Action → Nat
  | .setPhase _ _ | .setWave _ _ | .setSrc _ _ => 3
  | .word _ | .deselect | .delay _ | .finish _ => 1

/-- The words still to be sent when no word fails. -/
def wordsLeft (todo : List Action) : Nat := (todo.map wordsDue).sum

/-- The steps still to be taken when no word fails; 14 of them at most for one command (R249). -/
def stepsLeft (todo : List Action) : Nat := (todo.map stepsDue).sum

@[simp] theorem wordsLeft_nil : wordsLeft [] = 0 := rfl

@[simp] theorem wordsLeft_cons (a : Action) (todo : List Action) : wordsLeft (a :: todo) = wordsDue a + wordsLeft todo := rfl

@[simp] theorem stepsLeft_nil : stepsLeft [] = 0 := rfl

@[simp] theorem stepsLeft_cons (a : Action) (todo : List Action) : stepsLeft (a :: todo) = stepsDue a + stepsLeft todo := rfl

theorem stepsDue_pos (a : Action) : 0 < stepsDue a := by cases a <;> exact Nat.succ_pos _

/-- When no word fails, a running operation takes one of its steps, sends one of its words or none, and the rest is left. -/
theorem advanced_left {s : State} (htodo : s.todo ≠ []) (hok : answersOk (wordsLeft s.todo) s) :
    stepsLeft (advanced s).todo < stepsLeft s.todo ∧
      (wordsOf (advanced s).trace).length + wordsLeft (advanced s).todo = (wordsOf s.trace).length + wordsLeft s.todo ∧
      answersOk (wordsLeft (advanced s).todo) (advanced s) := by
  obtain ⟨a, rest, htodo⟩ := List.exists_cons_of_ne_nil htodo
  rw [htodo, wordsLeft_cons] at hok ⊢
  cases a with
  | word w =>
    rw [wordsDue, Nat.add_comm] at hok
    obtain ⟨answers, hans, hrest⟩ := answersOk_succ hok
    rw [advanced_word_of_ok htodo hans]
    refine ⟨by simp [stepsDue], ?_, hrest⟩
    simp [wordsOf_append, wordsOf, wordsDue, Nat.add_assoc]
  | deselect | delay _ | finish _ =>
    rw [wordsDue, Nat.zero_add] at hok
    rw [advanced_cons htodo, wordsOf_performed]
    exact ⟨by simp [performed, stepsDue], by simp [performed, actionWords, wordsDue], hok⟩
  | setPhase _ _ | setWave _ _ | setSrc _ _ =>
    have hrest (w : ChannelWord) : stepsLeft (.word w :: .deselect :: rest) < 3 + stepsLeft rest ∧
        wordsLeft (.word w :: .deselect :: rest) = 1 + wordsLeft rest := by
      simp [stepsDue, wordsDue]
      omega
    rw [advanced_cons htodo, wordsOf_performed, actionWords, List.append_nil]
    exact ⟨(hrest _).1, congrArg _ (hrest _).2, (hrest _).2 ▸ hok⟩

theorem seq_eq_zero_of_idle {s : State} (hs : SequencerOk s) (htodo : s.todo = []) : s.seq = 0 := by
  obtain ⟨hseq, -⟩ | ⟨-, h⟩ := hs
  · exact hseq
  · simp [htodo, insideFrame, betweenFrames] at h

/-- A running operation none of whose words fails is over after its steps, and has sent its words. -/
theorem runSteps_wordsLeft {s : State} {n : Nat} (hs : SequencerOk s) (hin : s.inputs = [])
    (hok : answersOk (wordsLeft s.todo) s) (hn : stepsLeft s.todo ≤ n) :
    ∃ u, runSteps n s = .next u ∧ u.seq = 0 ∧
      (wordsOf u.trace).length = (wordsOf s.trace).length + wordsLeft s.todo := by
  induction n generalizing s with
  | zero =>
    cases htodo : s.todo with
    | nil => exact ⟨s, runSteps_zero s, seq_eq_zero_of_idle hs htodo, rfl⟩
    | cons a rest =>
      have := stepsDue_pos a
      rw [htodo, stepsLeft_cons] at hn
      omega
  | succ n ih =>
    have hstep := step_quiet_eq hin
    cases htodo : s.todo with
    | nil => exact ⟨s, runSteps_idle hin htodo _, seq_eq_zero_of_idle hs htodo, rfl⟩
    | cons a rest =>
      obtain ⟨hsteps, hwords, hok'⟩ := advanced_left (by simp [htodo]) hok
      obtain ⟨u, hrun, hseq, hsent⟩ := ih (stepKeepsSequencerInStep s _ hs hstep) (by simpa using hin) hok' (by omega)
      exact ⟨u, (runSteps_succ n hstep).trans hrun, hseq, by rw [hsent, hwords, htodo]⟩

/-! ### What a command puts up -/

/-- The command `i` took an idle block from `s` to `t`, has sent no word yet, and has its words left to send. -/
structure Launched (i : Instr) (s t : State) : Prop where
  inputs : t.inputs = s.inputs
  answers : t.answers = s.answers
  words : wordsOf t.trace = wordsOf s.trace
  words_left : wordsLeft t.todo = wordCount i
  steps_left : stepsLeft t.todo ≤ 14

section Launched

variable {s s' : State} {i : Instr}

theorem launched_finish (hi : wordCount i = 0) (htodo : s.todo = []) (e : Ending) : Launched i s (finish e s) :=
  ⟨rfl, rfl, rfl, by simp [htodo, hi], by simp [htodo]⟩

/-- `s'` is `s` with registers written and what follows the first frame put up. -/
theorem launched_openFrame {ws : List ChannelWord} (hin : s'.inputs = s.inputs) (hans : s'.answers = s.answers)
    (htrace : s'.trace = s.trace) (hwords : ws.length + wordsLeft s'.todo = wordCount i)
    (hsteps : ws.length + (1 + stepsLeft s'.todo) ≤ 14) : Launched i s (openFrame ws s') where
  inputs := hin
  answers := hans
  words := by rw [openFrame_trace, htrace, wordsOf_append, wordsOf, wordsOf, List.append_nil]
  words_left := by
    rw [← hwords, openFrame_todo]
    simp [wordsLeft, wordsDue, Function.comp_def]
  steps_left := by
    refine le_trans (le_of_eq ?_) hsteps
    rw [openFrame_todo]
    simp [stepsLeft, stepsDue, Function.comp_def]

theorem wordCount_le (i : Instr) : wordCount i ≤ 6 := by cases i <;> simp [wordCount]

/-- A setter of one frame: every one but `APPLY`. -/
theorem launched_oneFrame {ws : List ChannelWord} (hin : s'.inputs = s.inputs) (hans : s'.answers = s.answers)
    (htrace : s'.trace = s.trace) (htodo : s'.todo = [.finish (.ok 0)]) (hwords : ws.length = wordCount i) :
    Launched i s (openFrame ws s') := by
  have hle : ws.length ≤ 6 := hwords ▸ wordCount_le i
  refine launched_openFrame hin hans htrace ?_ ?_
  · simp [htodo, wordsDue, hwords]
  · simp [htodo, stepsDue]
    omega

/-- `BEGIN` and `RESET`: the settling delay follows the frame. -/
theorem launched_resetBody (hin : s'.inputs = s.inputs) (hans : s'.answers = s.answers) (htrace : s'.trace = s.trace)
    (htodo : s'.todo = [.finish (.ok 0)]) (hi : wordCount i = 1) : Launched i s (resetBody s') := by
  refine launched_openFrame hin hans htrace ?_ ?_
  · simp [htodo, wordsDue, hi]
  · simp [htodo, stepsDue]

end Launched

/-- An idle block launches every command whose lifecycle and operands are in order (R202, R206, R248). -/
theorem exists_launched {s : State} {i : Instr} (htodo : s.todo = []) (hi : isCommand i = true) (hops : operandsOk i = true)
    (hbegun : i = .begin ↔ s.begun = false) : ∃ t, exec i s = .next t ∧ Launched i s t := by
  have hdone : (thenDone s).todo = [.finish (.ok 0)] := by simp [htodo]
  by_cases hfirst : i = .begin
  · subst hfirst
    exact ⟨_, if_neg (by simp [hbegun.1 rfl]), launched_resetBody rfl rfl rfl hdone rfl⟩
  have hb : s.begun = true := by simpa [hfirst] using hbegun
  cases i with
  | begin => exact absurd rfl hfirst
  | reset => exact ⟨_, whenBegun_of_begun hb _, launched_resetBody rfl rfl rfl hdone rfl⟩
  | setfreq ch a =>
    exact ⟨_, exec_setfreq hb ch (by simpa [operandsOk] using hops), launched_oneFrame rfl rfl rfl hdone rfl⟩
  | incfreq ch a =>
    exact ⟨_, exec_incfreq hb ch (by simpa [operandsOk] using hops), launched_oneFrame rfl rfl rfl hdone rfl⟩
  | setphase ch a => exact ⟨_, exec_setphase hb ch hops, launched_oneFrame rfl rfl rfl hdone rfl⟩
  | incphase ch a => exact ⟨_, exec_incphase hb ch hops, launched_oneFrame rfl rfl rfl hdone rfl⟩
  | setwave _ _ | setsrc _ _ | enout _ | sleep _ | dacoff _ | clkoff _ =>
    exact ⟨_, whenBegun_of_begun hb _, launched_oneFrame rfl rfl rfl hdone rfl⟩
  | apply shape fch a pch b =>
    have hoperands : isNaN a = false ∧ isFinite b = true := by simpa [operandsOk] using hops
    refine ⟨_, exec_apply hb shape fch pch hoperands.1 hoperands.2, launched_openFrame rfl rfl rfl ?_ ?_⟩
    · simp [htodo, wordsDue, wordCount]
    · simp [htodo, stepsDue]
  | getfreq _ | getphase _ | getres => exact ⟨_, whenBegun_of_begun hb _, launched_finish rfl htodo _⟩
  | wFreqCh0 _ | wFreqCh1 _ | wPhaseCh0 _ | wPhaseCh1 _ | wCtrl _ _ _ _ _ _ | wReset => cases hi

/-- Settles O46: a command puts up as many words as R248 says, and a run without a failing word sends all of them. -/
theorem wordsPerCommand : Obligations.WordsPerCommand := by
  intro s i _ htodo hin hok hi hops hbegun
  obtain ⟨t, hexec, ht⟩ := exists_launched htodo hi hops hbegun
  have hok' : answersOk (wordsLeft t.todo) t := by
    rw [answersOk, ht.answers, ht.words_left]
    exact answersOk_mono hok (wordCount_le i)
  have hs : SequencerOk t := sequencerOk_accepted htodo (accepted_of_exec hi hexec)
  obtain ⟨u, hrun, hseq, hsent⟩ := runSteps_wordsLeft hs (ht.inputs.trans hin) hok' ht.steps_left
  exact ⟨t, u, hexec, hrun, hseq, by rw [hsent, ht.words, ht.words_left]⟩

end Sys2Proof.Machine

/-! The frequency commands (R140 to R142), and the increments of both kinds as setters of a sum (R114, R151). -/

namespace Sys2Proof.Machine

/-! ### Denoted operands and their sums (R10, R114) -/

theorem isNaN_of_isFinite {a : B32} (h : isFinite a = true) : isNaN a = false := by
  simp_all [isFinite, isNaN]

theorem denote_of_not_isInf {a : B32} (h : isInf a = false) : denote a = .fin (val a) := by
  simp [denote, h]

/-- R114: an infinite delta passes, and a finite one gives the sum rounded once. -/
theorem addFreq_denote (cur a : B32) :
    addFreq cur (denote a) = if isInf a then denote a else denote (rnd32 (val cur + val a)) := by
  cases h : isInf a with
  | false => rw [denote_of_not_isInf h, if_neg Bool.false_ne_true, addFreq]
  | true =>
    rw [denote_of_isInf h]
    cases signBit a <;> rfl

theorem addFreq_denote_of_isFinite (cur : B32) {d : B32} (h : isFinite d = true) :
    addFreq cur (denote d) = denote (rnd32 (val cur + val d)) := by
  rw [denote_of_isFinite h, addFreq]

/-- R11: a value is rounded to a finite pattern of the same value, which denotes the same. -/
theorem denote_rnd32_val {b : B32} (h : isFinite b = true) : denote (rnd32 (val b)) = denote b := by
  have hfin : isFinite (rnd32 (val b)) = true :=
    (exists_rnd32Quot_significand Nat.one_pos (natAbs_val_lt_of_isFinite h)).1
  rw [denote_of_isFinite hfin, denote_of_isFinite h, val_rnd32_val h]

/-! ### Operands that clamp to a bound (R100) -/

theorem clampF_fin_of_nonpos (cfg : Config) {n : Int} (h : n ≤ 0) : clampF cfg (.fin n) = 0 := by
  have := clampF_fin cfg n
  omega

theorem clampF_fin_of_ge (cfg : Config) {n : Int} (h : (maxFreq cfg : Int) ≤ n) : clampF cfg (.fin n) = maxFreq cfg := by
  have := clampF_fin cfg n
  omega

theorem clampF_denote_zero (cfg : Config) : clampF cfg (denote 0x00000000) = 0 :=
  clampF_fin_of_nonpos cfg (by decide)

theorem clampF_denote_of_signBit (cfg : Config) {b : B32} (h : signBit b = true) : clampF cfg (denote b) = 0 := by
  cases hinf : isInf b with
  | false =>
    rw [denote_of_not_isInf hinf]
    exact clampF_fin_of_nonpos cfg (by simp [val, h])
  | true =>
    rw [denote_of_isInf hinf, h]
    rfl

/-- A sum of at most 0 clamps to 0 once rounded, also where the rounding carried it to minus infinity. -/
theorem clampF_denote_rnd32_of_nonpos (cfg : Config) {n : Int} (h : n ≤ 0) : clampF cfg (denote (rnd32 n)) = 0 := by
  rcases h.lt_or_eq with hneg | rfl
  · exact clampF_denote_of_signBit cfg (by simpa [rnd32] using hneg)
  · exact clampF_denote_zero cfg

/-! ### The frame of a setter and the end of its command (R53, R140) -/

/-- From an idle block, one frame whose words all go through, and the normal end. -/
theorem runSteps_oneFrame {s : State} (ws : List ChannelWord) (hseq : s.seq = 0) (htodo : s.todo = [])
    (hin : s.inputs = []) (hok : answersOk ws.length s) :
    runSteps (2 + ws.length) (openFrame ws (thenDone s)) = .next (completed s ws.length (frameEvents ws) 0) :=
  calc runSteps (2 + ws.length) (openFrame ws (thenDone s))
    _ = runSteps 1 _ := runSteps_openFrame (s := thenDone s) ws hin hok 1
    _ = runSteps 0 _ := runSteps_succ 0 (step_quiet_eq hin)
    _ = _ := by
      rw [runSteps_zero]
      simp [advanced, performed, finish, thenDone, completed, Ending.response, hseq, htodo]

/-- R140 from the line `h <- clampF(x)` on: what `SETFREQ` and `INCFREQ` have in common. -/
theorem runSteps_setFreqBody {s : State} (hready : Ready s) (hok : answersOk 3 s) (ch : Chan) (x : XReal) :
    let h := clampF s.cfg x
    let s' := { s with freq := s.freq.set ch (rnd32 (h : Int)) }
    runSteps 5 (setFreqBody ch x (thenDone s)) =
      .next (completed s' 3 (frameEvents [ctrl s', freqLow s.refclk ch h, freqHigh s.refclk ch h]) 0) := by
  obtain ⟨-, hseq, htodo, hin⟩ := hready
  exact runSteps_oneFrame (s := { s with freq := s.freq.set ch (rnd32 (clampF s.cfg x : Int)) }) [_, _, _]
    hseq htodo hin hok

/-- Settles O29: the state is that of the body, and its one frame goes through. -/
theorem setfreqCompletes : Obligations.SetfreqCompletes :=
  fun _ ch _ hbegun ha =>
    ⟨_, exec_setfreq hbegun ch ha, rfl, fun hready hok => runSteps_setFreqBody hready hok ch _⟩

/-- Settles O30: `INCFREQ` runs the body of `SETFREQ` on the sum. -/
theorem incfreqCompletes : Obligations.IncfreqCompletes := by
  intro s ch a hbegun ha
  have hexec := exec_incfreq hbegun ch ha
  rw [addFreq_denote] at hexec
  exact ⟨_, hexec, rfl, fun hready hok => runSteps_setFreqBody hready hok ch _⟩

/-! ### Commands that act alike (R142) -/

section Exec

variable (s : State) (ch : Chan) {a : B32}

theorem exec_setfreq_eq_whenBegun (ha : isNaN a = false) :
    exec (.setfreq ch a) s = whenBegun s (setFreqBody ch (denote a) (thenDone s)) := by
  rw [exec, execSetfreq, freqOperand_of_not_isNaN ha]

theorem exec_incfreq_eq_whenBegun (ha : isNaN a = false) :
    exec (.incfreq ch a) s = whenBegun s (setFreqBody ch (addFreq (s.freq.get ch) (denote a)) (thenDone s)) := by
  rw [exec, execIncfreq, freqOperand_of_not_isNaN ha]

theorem exec_setphase_eq_whenBegun (ha : isFinite a = true) :
    exec (.setphase ch a) s = whenBegun s (setPhaseBody ch (val a) (thenDone s)) := by
  rw [exec, execSetphase, phaseOperand_of_isFinite ha]

theorem exec_incphase_eq_whenBegun (ha : isFinite a = true) :
    exec (.incphase ch a) s = whenBegun s (setPhaseBody ch (addPhase (s.phase.get ch) (val a)) (thenDone s)) := by
  rw [exec, execIncphase, phaseOperand_of_isFinite ha]

end Exec

/-- The operand of a frequency setter enters it by its clamped value alone (R140). -/
theorem setFreqBody_congr {s : State} {x y : XReal} (ch : Chan) (h : clampF s.cfg x = clampF s.cfg y) :
    setFreqBody ch x s = setFreqBody ch y s := by
  rw [setFreqBody_eq, setFreqBody_eq, h]

theorem exec_setfreq_congr {s : State} {a b : B32} (ch : Chan) (ha : isNaN a = false) (hb : isNaN b = false)
    (h : clampF s.cfg (denote a) = clampF s.cfg (denote b)) : exec (.setfreq ch a) s = exec (.setfreq ch b) s := by
  rw [exec_setfreq_eq_whenBegun s ch ha, exec_setfreq_eq_whenBegun s ch hb]
  exact congrArg _ (setFreqBody_congr ch h)

theorem exec_incfreq_eq_exec_setfreq {s : State} {d a : B32} (ch : Chan) (hd : isNaN d = false) (ha : isNaN a = false)
    (h : clampF s.cfg (addFreq (s.freq.get ch) (denote d)) = clampF s.cfg (denote a)) :
    exec (.incfreq ch d) s = exec (.setfreq ch a) s := by
  rw [exec_incfreq_eq_whenBegun s ch hd, exec_setfreq_eq_whenBegun s ch ha]
  exact congrArg _ (setFreqBody_congr ch h)

/-- Settles O42: the operand, or the rounded sum, clamps to what the bound clamps to. -/
theorem outOfRangeFrequencyActsAsTheBound : Obligations.OutOfRangeFrequencyActsAsTheBound := by
  intro s ch a hcfg ha
  have hnan := isNaN_of_isFinite ha
  refine ⟨fun h0 => ?_, fun hmax => ?_, fun h0 => ?_⟩
  · refine exec_setfreq_congr ch hnan (by decide) ?_
    rw [denote_of_isFinite ha, clampF_fin_of_nonpos _ h0, clampF_denote_zero]
  · obtain ⟨hmaxfin, -⟩ := id hcfg
    have hceiling := maxFreq_eq hcfg
    refine exec_setfreq_congr ch hnan (isNaN_of_isFinite hmaxfin) ?_
    rw [denote_of_isFinite ha, denote_of_isFinite hmaxfin, clampF_fin_of_ge _ (hceiling.le.trans hmax),
      clampF_fin_of_ge _ hceiling.le]
  · refine exec_incfreq_eq_exec_setfreq ch hnan (by decide) ?_
    rw [addFreq_denote_of_isFinite _ ha, clampF_denote_rnd32_of_nonpos _ h0, clampF_denote_zero]

/-- Settles O43: rounding keeps a sum that is a binary32 value. -/
theorem incrementActsAsTheSetterOfTheSum : Obligations.IncrementActsAsTheSetterOfTheSum := by
  intro s ch d x hd hx
  refine ⟨fun hsum => ?_, fun hsum => ?_⟩
  · refine exec_incfreq_eq_exec_setfreq ch (isNaN_of_isFinite hd) (isNaN_of_isFinite hx) ?_
    rw [addFreq_denote_of_isFinite _ hd, ← hsum, denote_rnd32_val hx]
  · rw [exec_incphase_eq_whenBegun s ch hd, exec_setphase_eq_whenBegun s ch hx, addPhase, ← hsum, val_rnd32_val hx]

/-! ### The frequency read back (R104, R142) -/

theorem clampF_fin_of_mem {cfg : Config} {n : Int} (h0 : 0 ≤ n) (hle : n ≤ maxFreq cfg) :
    (clampF cfg (.fin n) : Int) = n := by
  rw [clampF_fin, min_eq_left hle, max_eq_right h0]

/-- A value in range is stored as it is, with sign bit 0 (R21, R100). -/
theorem magnitude_stored_of_mem {cfg : Config} (hcfg : ConfigLegal cfg) {a : B32} (ha : isFinite a = true)
    (h0 : 0 ≤ val a) (hle : val a ≤ val cfg.maxFreqHz) :
    (magnitude (rnd32 (clampF cfg (denote a) : Int)) : Int) = val a := by
  obtain ⟨-, hsign, -, -⟩ := freqOk_clampF hcfg (denote a)
  rw [← val_of_signBit_false hsign, denote_of_isFinite ha, clampF_fin_of_mem h0 (by rwa [maxFreq_eq hcfg]),
    val_rnd32_val ha]

theorem exec_getfreq {s : State} (hbegun : s.begun = true) (ch : Chan) :
    exec (.getfreq ch) s = .next (finish (.ok (actualF s.refclk (magnitude (s.freq.get ch)))) s) :=
  whenBegun_of_begun hbegun _

/-- R104: where the word of `h` fits in 28 bits, the readback is its quantized frequency rounded once. -/
theorem actualF_eq_rnd32 {refclk : BitVec 32} {h : Nat} (hr : refclk ≠ 0) (hfit : fw refclk h < 2 ^ 28) {x n : Int}
    (hx : (h : Int) = x)
    (hn : (n : ℚ) = (⌊((x : ℚ) / (unit : ℚ)) * 2 ^ 28 / (refclk.toNat : ℚ) + 1 / 2⌋ : ℚ) * (refclk.toNat : ℚ) / 2 ^ 28
      * (unit : ℚ)) : actualF refclk h = rnd32 n := by
  have hunits : n = ((fw refclk h * refclk.toNat * 2 ^ 121 : Nat) : Int) := by
    have : (n : ℚ) = ((fw refclk h * refclk.toNat * 2 ^ 121 : Nat) : ℚ) := by
      rw [hn, ← hx, Int.cast_natCast, ← fw_eq_floor hr, unit]
      push_cast
      ring
    exact_mod_cast this
  rw [actualF, hunits, toNat_fw28, Nat.mod_eq_of_lt hfit]

/-- R102: under the default ceiling the word of a value in range fits in 28 bits from a `REFCLK` of 12500001 on. -/
theorem fw_lt_of_le_ceiling {refclk : BitVec 32} (hr : 12500001 ≤ refclk.toNat) {h : Nat}
    (hle : (h : Int) ≤ val 0x4B3EBC20) : fw refclk h < 2 ^ 28 := by
  have hdefault : val 0x4B3EBC20 = (maxFreq Config.default : Int) := by decide
  have hne : refclk ≠ 0 := by
    rintro rfl
    exact absurd hr (by decide)
  exact (fw_mono refclk (by omega)).trans_lt ((fw_ceiling_lt_iff hne).2 hr)

/-- Settles O24: the stored value is the operand itself, and its word fits. -/
theorem frequencyRoundTrip : Obligations.FrequencyRoundTrip := by
  intro s ch a hready hok hregs hceiling hrefclk ha h0 hmax
  obtain ⟨hbegun, -⟩ := id hready
  have hstored := magnitude_stored_of_mem hregs.cfg ha h0 hmax
  refine ⟨_, _, _, exec_setfreq hbegun ch (isNaN_of_isFinite ha), runSteps_setFreqBody hready hok ch _,
    exec_getfreq (by exact hbegun) ch, fun n hn => ?_⟩
  have hfit : fw s.refclk (magnitude (rnd32 (clampF s.cfg (denote a) : Int))) < 2 ^ 28 :=
    fw_lt_of_le_ceiling hrefclk (by rwa [hstored, ← hceiling])
  have hanswer := actualF_eq_rnd32 hregs.refclk hfit hstored hn
  simp only [finish_responses, completed, Pair.get_set_same, hanswer, Ending.response]

end Sys2Proof.Machine

/-! The phase commands (R150, R151), and the angles that act alike (R106). -/

namespace Sys2Proof.Machine

/-! ### The frame of a phase setter (R150) -/

/-- R150 from the line `p <- normP(x)` on: what `SETPHASE` and `INCPHASE` have in common. -/
theorem runSteps_setPhaseBody {s : State} (hready : Ready s) (hok : answersOk 1 s) (ch : Chan) (x : Int) :
    let p := normP x
    let s' := { s with phase := s.phase.set ch p }
    runSteps 3 (setPhaseBody ch x (thenDone s)) = .next (completed s' 1 (frameEvents [pword ch p]) 0) := by
  obtain ⟨-, hseq, htodo, hin⟩ := hready
  exact runSteps_oneFrame (s := { s with phase := s.phase.set ch (normP x) }) [_] hseq htodo hin hok

/-- Settles O31: the state is that of the body, and its one frame goes through. -/
theorem setphaseCompletes : Obligations.SetphaseCompletes :=
  fun _ ch _ hbegun ha =>
    ⟨_, exec_setphase hbegun ch ha, setPhaseBody_eq ch _ _, fun hready hok => runSteps_setPhaseBody hready hok ch _⟩

/-- Settles O32: `INCPHASE` runs the body of `SETPHASE` on the rounded sum. -/
theorem incphaseCompletes : Obligations.IncphaseCompletes :=
  fun _ ch _ hbegun ha =>
    ⟨_, exec_incphase hbegun ch ha, setPhaseBody_eq ch _ _, fun hready hok => runSteps_setPhaseBody hready hok ch _⟩

/-! ### Angles that differ by whole turns (R106, R150) -/

theorem remainder360_add_turns (x k : Int) : remainder360 (x + k * (fullTurn : Int)) = remainder360 x :=
  Int.add_mul_emod_self_right x k fullTurn

/-- An angle enters its normalization by its remainder alone (R106). -/
theorem normP_congr {x y : Int} (h : remainder360 x = remainder360 y) : normP x = normP y := by
  rw [normP, normP, h]

/-- The operand of a phase setter enters it by its normalized pattern alone (R150). -/
theorem setPhaseBody_congr {x y : Int} (ch : Chan) (h : normP x = normP y) (s : State) :
    setPhaseBody ch x s = setPhaseBody ch y s := by
  rw [setPhaseBody_eq, setPhaseBody_eq, h]

/-- Settles O44: whole turns leave the remainder alone, and nothing else of an angle enters the setter. -/
theorem phaseActsModulo360 : Obligations.PhaseActsModulo360 := by
  intro s ch a b k ha hb hturns
  have hnorm : normP (val a) = normP (val b) := normP_congr (by rw [hturns, remainder360_add_turns])
  rw [exec_setphase_eq_whenBegun s ch ha, exec_setphase_eq_whenBegun s ch hb, setPhaseBody_congr ch hnorm]

end Sys2Proof.Machine

/-! The control commands (R160 to R165): each writes registers of the control image and sends it (R166). -/

namespace Sys2Proof.Machine

/-! ### The frame of a control command (R166) -/

/-- One frame with the control image of the state as it is, and the normal end (R166). -/
theorem runSteps_writeCtrl {s : State} (hready : Ready s) (hok : answersOk 1 s) :
    runSteps 3 (writeCtrl (thenDone s)) = .next (completed s 1 (frameEvents [ctrl s]) 0) := by
  obtain ⟨-, hseq, htodo, hin⟩ := hready
  exact runSteps_oneFrame [ctrl s] hseq htodo hin hok

/-- A command that writes no more than the registers of R110, then `writeCtrl()` and `done`. The other fields of the state
stay, so the written state is ready, and its words are answered, as the state before it. -/
theorem sendsControlImage_of_exec {i : Instr} {s : State} {wave : Pair Shape} {afc apc : Chan} {oe dacdis clkdis : Bool}
    (hexec : exec i s = .next (writeCtrl (thenDone { s with
      wave := wave, afc := afc, apc := apc, oe := oe, dacdis := dacdis, clkdis := clkdis }))) :
    SendsControlImage i s { s with
      wave := wave, afc := afc, apc := apc, oe := oe, dacdis := dacdis, clkdis := clkdis } :=
  ⟨_, hexec, writeCtrl_eq _, fun hready hok => runSteps_writeCtrl hready hok⟩

/-! ### The shape, the selections and the flags (R160 to R165) -/

/-- Settles O33: a shape or both selections are written, and the written channel need not be the active one. -/
theorem shapeAndSourceCommandsComplete : Obligations.ShapeAndSourceCommandsComplete :=
  fun _ hbegun =>
    ⟨fun _ _ => sendsControlImage_of_exec (whenBegun_of_begun hbegun _),
      fun _ _ => sendsControlImage_of_exec (whenBegun_of_begun hbegun _)⟩

/-- Settles O34: each of the four commands writes its flags before the control image is taken. -/
theorem flagCommandsComplete : Obligations.FlagCommandsComplete :=
  fun _ _ hbegun =>
    ⟨sendsControlImage_of_exec (whenBegun_of_begun hbegun _), sendsControlImage_of_exec (whenBegun_of_begun hbegun _),
      sendsControlImage_of_exec (whenBegun_of_begun hbegun _), sendsControlImage_of_exec (whenBegun_of_begun hbegun _)⟩

end Sys2Proof.Machine

/-! The composite command (R180, R181), and the end of every command however its words are answered (R249). -/

namespace Sys2Proof.Machine

/-! ### The four frames of `APPLY` (R180) -/

/-- Of the words answered `Ok`, those after the first `k`. -/
theorem answersOk_drop {k m n : Nat} {s t : State} (h : answersOk n s) (hle : k + m ≤ n)
    (ht : t.answers = s.answers.drop k) : answersOk m t := by
  rw [answersOk, ht, List.take_drop, answersOk_mono h hle, List.drop_replicate, Nat.add_sub_cancel_left]

section SubOperations

variable {s : State} (hin : s.inputs = [])

include hin

/-- A sub-operation of `APPLY` opens a frame of one word from `s'`, and the word goes through (R53, R180). -/
theorem runSteps_subOperation {s' : State} {a : Action} {rest : List Action} {w : ChannelWord}
    (htodo : s.todo = a :: rest) (hopens : performed a { s with todo := rest } = openFrame [w] s')
    (hok : answersOk 1 s') (n : Nat) :
    runSteps (n + 3) s = runSteps n { s' with
      seq := 1
      answers := s'.answers.drop 1
      trace := s'.trace ++ frameEvents [w] } := by
  have hin' : s'.inputs = [] := by rw [← openFrame_inputs [w] s', ← hopens, performed_inputs, hin]
  rw [runSteps_succ (n + 2) (step_quiet_eq hin), advanced_cons htodo, hopens]
  exact runSteps_openFrame [w] hin' hok n

/-- The selections and the end are left. -/
theorem runSteps_fromSetSrc {fch pch : Chan} (htodo : s.todo = [.setSrc fch pch, .finish (.ok 0)]) (hok : answersOk 1 s) :
    runSteps 4 s = .next (completed { s with afc := fch, apc := pch, seq := 0, todo := [] } 1
      (frameEvents [ctrl { s with afc := fch, apc := pch }]) 0) :=
  calc runSteps 4 s
    _ = runSteps 1 _ := runSteps_subOperation hin htodo rfl hok 1
    _ = runSteps 0 _ := runSteps_succ 0 (step_quiet_eq hin)
    _ = _ := rfl

/-- The shape, the selections and the end are left. -/
theorem runSteps_fromSetWave {fch pch : Chan} {shape : Shape}
    (htodo : s.todo = [.setWave fch shape, .setSrc fch pch, .finish (.ok 0)]) (hok : answersOk 2 s) :
    runSteps 7 s = .next (completed
      { s with wave := s.wave.set fch shape, afc := fch, apc := pch, seq := 0, todo := [] } 2
      (frameEvents [ctrl { s with wave := s.wave.set fch shape }] ++
        frameEvents [ctrl { s with wave := s.wave.set fch shape, afc := fch, apc := pch }]) 0) :=
  calc runSteps 7 s
    _ = runSteps 4 _ := runSteps_subOperation hin htodo rfl (answersOk_mono hok (by decide)) 4
    _ = .next _ := runSteps_fromSetSrc (by exact hin) rfl (answersOk_drop hok le_rfl rfl)
    _ = _ := by simp [completed, ctrl]

/-- The phase, the shape, the selections and the end are left. -/
theorem runSteps_fromSetPhase {fch pch : Chan} {y : Int} {shape : Shape}
    (htodo : s.todo = [.setPhase pch y, .setWave fch shape, .setSrc fch pch, .finish (.ok 0)]) (hok : answersOk 3 s) :
    runSteps 10 s = .next (completed
      { s with
        phase := s.phase.set pch (normP y), wave := s.wave.set fch shape, afc := fch, apc := pch, seq := 0, todo := [] } 3
      (frameEvents [pword pch (normP y)] ++ frameEvents [ctrl { s with wave := s.wave.set fch shape }] ++
        frameEvents [ctrl { s with wave := s.wave.set fch shape, afc := fch, apc := pch }]) 0) :=
  calc runSteps 10 s
    _ = runSteps 7 _ := runSteps_subOperation hin htodo rfl (answersOk_mono hok (by decide)) 7
    _ = .next _ := runSteps_fromSetWave (by exact hin) rfl (answersOk_drop hok le_rfl rfl)
    _ = _ := by simp [completed, ctrl]

end SubOperations

/-- The run of `APPLY` from its first frame on: one frame for each of the four setters, and the normal end (R180). -/
theorem runSteps_apply {s : State} (hready : Ready s) (hok : answersOk 6 s) (shape : Shape) (fch pch : Chan) (x : XReal)
    (y : Int) :
    let h := clampF s.cfg x
    let p := normP y
    let s1 := { s with freq := s.freq.set fch (rnd32 (h : Int)) }
    let s2 := { s1 with phase := s.phase.set pch p }
    let s3 := { s2 with wave := s.wave.set fch shape }
    let s4 := { s3 with afc := fch, apc := pch }
    runSteps 14 (setFreqBody fch x { thenDone s with
        todo := .setPhase pch y :: .setWave fch shape :: .setSrc fch pch :: (thenDone s).todo }) =
      .next (completed s4 6
        (frameEvents [ctrl s, freqLow s.refclk fch h, freqHigh s.refclk fch h] ++ frameEvents [pword pch p] ++
          frameEvents [ctrl s3] ++ frameEvents [ctrl s4]) 0) := by
  obtain ⟨-, hseq, htodo, hin⟩ := hready
  have hfirst : answersOk 3 s := answersOk_mono hok (by decide)
  have hsubs : Action.setPhase pch y :: .setWave fch shape :: .setSrc fch pch :: (thenDone s).todo =
      [.setPhase pch y, .setWave fch shape, .setSrc fch pch, .finish (.ok 0)] := by simp [htodo]
  intro h p s1 s2 s3 s4
  calc runSteps 14 (setFreqBody fch x { thenDone s with
        todo := .setPhase pch y :: .setWave fch shape :: .setSrc fch pch :: (thenDone s).todo })
    _ = runSteps 10 _ := runSteps_openFrame [ctrl s, freqLow s.refclk fch h, freqHigh s.refclk fch h] hin hfirst 10
      (s := { s1 with todo := .setPhase pch y :: .setWave fch shape :: .setSrc fch pch :: (thenDone s).todo })
    _ = .next _ := runSteps_fromSetPhase (by exact hin) hsubs (answersOk_drop hok le_rfl rfl)
    _ = _ := by simp [completed, ctrl, hseq, htodo, s4, s3, s2, s1, p, h]

/-- Settles O35: each of the four setters opens its frame on the registers as the ones before it left them. -/
theorem applyCompletes : Obligations.ApplyCompletes :=
  fun _ shape fch _ pch _ hbegun ha hb =>
    ⟨_, exec_apply hbegun shape fch pch ha hb, rfl, fun hready hok => runSteps_apply hready hok shape fch pch _ _⟩

/-! ### The flags during `APPLY` (R181) -/

/-- What every step of the running operation keeps, a run of a block whose host drives nothing keeps. -/
theorem runSteps_keeps {P : State → Prop} (hstep : ∀ s, P s → P (advanced s)) {s u : State} (hin : s.inputs = [])
    (h : P s) {n : Nat} (hrun : runSteps n s = .next u) : P u := by
  induction n generalizing s with
  | zero =>
    rw [runSteps_zero] at hrun
    injection hrun with hrun
    exact hrun ▸ h
  | succ n ih =>
    rw [runSteps_succ n (step_quiet_eq hin)] at hrun
    exact ih (by simpa using hin) (hstep s h) hrun

/-- The three flags of R181 stand in `t` as in `s`. -/
def SameFlags (s t : State) : Prop := t.oe = s.oe ∧ t.dacdis = s.dacdis ∧ t.clkdis = s.clkdis

theorem SameFlags.advanced {s t : State} (h : SameFlags s t) : SameFlags s (advanced t) := by
  cases htodo : t.todo with
  | nil => rwa [advanced_nil htodo]
  | cons a rest => simpa [SameFlags, advanced_cons htodo] using h

theorem Accepted.inputs {s t : State} {i : Instr} (h : Accepted s i t) : t.inputs = s.inputs := by cases h <;> rfl

/-- Settles O45: `APPLY` is accepted with the flags as they are, and no action of a running operation writes one. -/
theorem applyKeepsTheFlags : Obligations.ApplyKeepsTheFlags := by
  intro s t u shape fch a pch b n hin hexec hrun
  have hacc := accepted_of_exec rfl hexec
  have hflags : SameFlags s t := by
    cases hacc with
    | ended | apply => exact ⟨rfl, rfl, rfl⟩
  exact runSteps_keeps (P := SameFlags s) (fun _ => SameFlags.advanced) (hacc.inputs.trans hin) hflags hrun

/-! ### What is left of an operation however its words are answered (R249) -/

/-- The responses an action sends. -/
def responsesDue : Action → Nat
  | .finish _ => 1
  | .word _ | .deselect | .delay _ | .setPhase _ _ | .setWave _ _ | .setSrc _ _ => 0

/-- The responses still to be sent. -/
def responsesLeft (todo : List Action) : Nat := (todo.map responsesDue).sum

@[simp] theorem responsesLeft_nil : responsesLeft [] = 0 := rfl

@[simp] theorem responsesLeft_cons (a : Action) (todo : List Action) :
    responsesLeft (a :: todo) = responsesDue a + responsesLeft todo := rfl

theorem stepsLeft_frame (ws : List ChannelWord) (rest : List Action) :
    stepsLeft (ws.map .word ++ .deselect :: rest) = ws.length + 1 + stepsLeft rest := by
  simp [stepsLeft, stepsDue, Function.comp_def, Nat.add_assoc]

theorem responsesLeft_frame (ws : List ChannelWord) (rest : List Action) :
    responsesLeft (ws.map .word ++ .deselect :: rest) = responsesLeft rest := by
  simp [responsesLeft, responsesDue, Function.comp_def]

/-- Between two frames the end of the command is still to come, once. -/
theorem left_of_betweenFrames {l : List Action} (h : betweenFrames l = true) :
    1 ≤ stepsLeft l ∧ responsesLeft l = 1 := by
  fun_induction betweenFrames l with
  | case1 e => simp [stepsDue, responsesDue]
  | case2 _ t ih | case3 _ _ t ih | case4 _ _ t ih | case5 _ _ t ih =>
    obtain ⟨hsteps, hresponses⟩ := ih h
    exact ⟨le_add_left hsteps, by rw [responsesLeft_cons, responsesDue, hresponses]⟩
  | case6 => cases h

/-- Inside a frame its `Sel(false)` and the end of the command are still to come: as much as a fault leaves (R204). -/
theorem left_of_insideFrame {room : Nat} {l : List Action} (h : insideFrame room l = true) :
    2 ≤ stepsLeft l ∧ responsesLeft l = 1 := by
  fun_induction insideFrame room l with
  | case1 room w t ih =>
    rw [Bool.and_eq_true] at h
    obtain ⟨hsteps, hresponses⟩ := ih h.2
    exact ⟨le_add_left hsteps, by rw [responsesLeft_cons, responsesDue, hresponses]⟩
  | case2 room t =>
    obtain ⟨hsteps, hresponses⟩ := left_of_betweenFrames h
    exact ⟨Nat.add_le_add_left hsteps 1, by rw [responsesLeft_cons, responsesDue, hresponses]⟩
  | case3 => cases h

/-- The events and the responses so far. -/
def outputCount (s : State) : Nat := s.trace.length + s.responses.length

/-- From `s` to `t` the running operation took one of its steps: it put out one event or one response, and the responses sent
and still to be sent are as many as before. -/
structure Progress (s t : State) : Prop where
  steps : stepsLeft t.todo < stepsLeft s.todo
  outputs : outputCount t = outputCount s + 1
  responses : t.responses.length + responsesLeft t.todo = s.responses.length + responsesLeft s.todo

/-- A word makes progress also where it fails: a fault leaves to do no more than the frame had left. -/
theorem progress_memWrite {s : State} {w : ChannelWord} {rest : List Action} (htodo : s.todo = .word w :: rest)
    (hrest : 2 ≤ stepsLeft rest ∧ responsesLeft rest = 1) : Progress s (memWrite w { s with todo := rest }) := by
  obtain ⟨hsteps, hresponses⟩ := hrest
  have houtputs : outputCount (memWrite w { s with todo := rest }) = outputCount s + 1 := by
    simp [outputCount, Nat.add_right_comm]
  rcases nextAnswer_cases { s with todo := rest } with hok | hfault
  · refine ⟨?_, houtputs, ?_⟩ <;> simp [memWrite_of_ok hok, htodo, stepsDue, responsesDue]
  · refine ⟨?_, houtputs, ?_⟩
    · simp [memWrite_of_fault hfault, htodo, stepsDue]
      omega
    · simp [memWrite_of_fault hfault, htodo, responsesDue, hresponses]

/-- Every step of a running operation makes progress, whatever the channel answers. -/
theorem progress_advanced {s : State} (hs : SequencerOk s) (htodo : s.todo ≠ []) : Progress s (advanced s) := by
  obtain ⟨a, rest, htodo⟩ := List.exists_cons_of_ne_nil htodo
  rw [advanced_cons htodo]
  cases a with
  | word w =>
    obtain ⟨-, -, hrest⟩ : s.seq ≠ 0 ∧ 4 - s.seq.toNat ≠ 0 ∧ insideFrame (4 - s.seq.toNat - 1) rest = true := by
      simpa [SequencerOk, htodo, insideFrame, betweenFrames] using hs
    exact progress_memWrite htodo (left_of_insideFrame hrest)
  | deselect | delay _ | finish _ =>
    constructor <;> simp +arith [performed, htodo, stepsDue, responsesDue, outputCount]
  | setPhase _ _ | setWave _ _ | setSrc _ _ =>
    constructor <;>
      simp +arith [performed, setPhaseBody_eq, setWaveBody, setSrcBody, writeCtrl_eq, htodo, stepsDue, responsesDue,
        outputCount]

/-- An operation is over after its steps however its words are answered: it puts out at most one event or response a step, and
every response it owes. -/
theorem runSteps_stepsLeft {s : State} {n : Nat} (hs : SequencerOk s) (hin : s.inputs = []) (hn : stepsLeft s.todo ≤ n) :
    ∃ u, runSteps n s = .next u ∧ u.seq = 0 ∧ u.todo = [] ∧ outputCount u ≤ outputCount s + n ∧
      u.responses.length = s.responses.length + responsesLeft s.todo := by
  induction n generalizing s with
  | zero =>
    cases htodo : s.todo with
    | nil => exact ⟨s, runSteps_zero s, seq_eq_zero_of_idle hs htodo, htodo, le_rfl, rfl⟩
    | cons a rest =>
      have := stepsDue_pos a
      rw [htodo, stepsLeft_cons] at hn
      omega
  | succ n ih =>
    have hstep := step_quiet_eq hin
    by_cases htodo : s.todo = []
    · exact ⟨s, runSteps_idle hin htodo _, seq_eq_zero_of_idle hs htodo, htodo, Nat.le_add_right _ _, by simp [htodo]⟩
    · obtain ⟨hsteps, houtputs, hresponses⟩ := progress_advanced hs htodo
      obtain ⟨u, hrun, hseq, hidle, hbound, hsent⟩ :=
        ih (stepKeepsSequencerInStep s _ hs hstep) (by simpa using hin) (by omega)
      exact ⟨u, (runSteps_succ n hstep).trans hrun, hseq, hidle, by omega, hsent.trans hresponses⟩

/-- The command that took an idle block from `s` to `t` has put out its first event or its response, and 14 steps at most and
what it still owes of its one response are left. -/
structure Underway (s t : State) : Prop where
  steps : stepsLeft t.todo ≤ 14
  outputs : outputCount t = outputCount s + 1
  responses : t.responses.length + responsesLeft t.todo = s.responses.length + 1

/-- `s'` is `s` with registers written and what follows the first frame put up. -/
theorem underway_openFrame {s s' : State} {ws : List ChannelWord} (hsteps : ws.length + 1 + stepsLeft s'.todo ≤ 14)
    (hends : responsesLeft s'.todo = 1) (htrace : s'.trace = s.trace) (hresponses : s'.responses = s.responses) :
    Underway s (openFrame ws s') where
  steps := by rwa [openFrame_todo, stepsLeft_frame]
  outputs := by simp [outputCount, htrace, hresponses, Nat.add_right_comm]
  responses := by rw [openFrame_todo, responsesLeft_frame, hends, openFrame_responses, hresponses]

theorem Accepted.underway {s t : State} {i : Instr} (htodo : s.todo = []) (h : Accepted s i t) : Underway s t := by
  cases h with
  | ended e =>
    refine ⟨by simp [htodo], ?_, by simp [htodo]⟩
    simp [outputCount, Nat.add_assoc]
  | begin | reset | setfreq | incfreq | setphase | incphase | setwave | setsrc | enout | sleep | dacoff | clkoff | apply =>
    exact underway_openFrame (by simp [htodo, stepsDue]) (by simp [htodo, responsesDue]) rfl rfl

/-- Settles O48: the steps left bound the run, and every step puts out one event or the one response. -/
theorem everyCommandTerminates : Obligations.EveryCommandTerminates := by
  intro s t i _ htodo hin hi hexec
  have hacc := accepted_of_exec hi hexec
  obtain ⟨hsteps, houtputs, hresponses⟩ := hacc.underway htodo
  obtain ⟨u, hrun, hseq, hidle, hbound, hsent⟩ :=
    runSteps_stepsLeft (sequencerOk_accepted htodo hacc) (hacc.inputs.trans hin) hsteps
  refine ⟨u, hrun, hseq, hidle, ?_, hsent.trans hresponses⟩
  rw [outputCount, outputCount] at *
  omega

end Sys2Proof.Machine

/-! The readback commands (R190 to R192): a response with the quantized value, no event and no register. -/

namespace Sys2Proof.Machine

/-! ### The accepted readbacks -/

theorem exec_getphase {s : State} (hbegun : s.begun = true) (ch : Chan) :
    exec (.getphase ch) s = .next (finish (.ok (actualP (s.phase.get ch))) s) :=
  whenBegun_of_begun hbegun _

theorem exec_getres {s : State} (hbegun : s.begun = true) :
    exec .getres s = .next (finish (.ok (resolution s.refclk)) s) :=
  whenBegun_of_begun hbegun _

/-- R104 with the wrap of R102 written out: only the low 28 bits of the frequency word are read back. -/
theorem actualF_eq_rnd32_mod (refclk : BitVec 32) (h : Nat) :
    actualF refclk h = rnd32 ((fw refclk h % 2 ^ 28 * refclk.toNat * 2 ^ 121 : Nat) : Int) := by
  rw [actualF, toNat_fw28]

/-- Settles O36: each readback ends at once, and `GETFREQ` answers with the wrapped frequency word, scaled and rounded once. -/
theorem readbacksComplete : Obligations.ReadbacksComplete := by
  intro s ch hbegun
  refine ⟨?getfreq, exec_getphase hbegun ch, exec_getres hbegun⟩
  case getfreq => rw [exec_getfreq hbegun ch, actualF_eq_rnd32_mod, finish, Ending.response]

end Sys2Proof.Machine

/-! Illegal commands (R201), the lifecycle precondition (R206), and the operands that are rejected (R202). -/

namespace Sys2Proof.Machine

/-! ### Illegal commands and lifecycle violations -/

/-- Settles O11: the word has no decoding, so its step is `finish` alone, which sets `SEQ` to the 0 it has. -/
theorem illegalCommandHasNoEffectButItsResponse : Obligations.IllegalCommandHasNoEffectButItsResponse := by
  intro s w rest hseq hin hw
  obtain ⟨e, he⟩ := (commandDecodingIsTotal w).2 hw
  rw [step_command_idle hin hseq, accept_error he, finish, Ending.response, ← hseq]

theorem exec_begin_of_begun {s : State} (h : s.begun = true) : exec .begin s = .fault .lifecycleViolation :=
  if_pos h

theorem exec_begin_of_not_begun {s : State} (h : s.begun = false) :
    exec .begin s = .next (resetBody (thenDone { s with begun := true })) :=
  if_neg (by simp [h])

/-- Every command but `BEGIN` is a body under the common precondition (R206). -/
theorem exists_exec_eq_whenBegun {i : Instr} (hi : isCommand i = true) (hne : i ≠ .begin) (s : State) :
    ∃ body, exec i s = whenBegun s body := by
  cases i with
  | begin => exact absurd rfl hne
  | reset | setfreq _ _ | incfreq _ _ | setphase _ _ | incphase _ _ | setwave _ _ | setsrc _ _ | enout _ | sleep _
  | dacoff _ | clkoff _ | apply _ _ _ _ _ | getfreq _ | getphase _ | getres => exact ⟨_, rfl⟩
  | wFreqCh0 _ | wFreqCh1 _ | wPhaseCh0 _ | wPhaseCh1 _ | wCtrl _ _ _ _ _ _ | wReset => cases hi

theorem exec_of_not_begun {i : Instr} (hi : isCommand i = true) (hne : i ≠ .begin) {s : State} (h : s.begun = false) :
    exec i s = .fault .lifecycleViolation := by
  obtain ⟨body, hbody⟩ := exists_exec_eq_whenBegun hi hne s
  rw [hbody, whenBegun_of_not_begun h]

theorem exists_exec_next_of_begun {i : Instr} (hi : isCommand i = true) (hne : i ≠ .begin) {s : State}
    (h : s.begun = true) : ∃ t, exec i s = .next t := by
  obtain ⟨body, hbody⟩ := exists_exec_eq_whenBegun hi hne s
  exact ⟨body, by rw [hbody, whenBegun_of_begun h]⟩

/-- An emitted word is executed in every state (R53). -/
theorem exists_exec_next_of_word {i : Instr} (hi : isCommand i = false) (s : State) : ∃ t, exec i s = .next t := by
  cases i with
  | wFreqCh0 _ | wFreqCh1 _ | wPhaseCh0 _ | wPhaseCh1 _ | wCtrl _ _ _ _ _ _ | wReset => exact ⟨_, rfl⟩
  | begin | reset | setfreq _ _ | incfreq _ _ | setphase _ _ | incphase _ _ | setwave _ _ | setsrc _ _ | enout _
  | sleep _ | dacoff _ | clkoff _ | apply _ _ _ _ _ | getfreq _ | getphase _ | getres => cases hi

/-- Settles O12, by what `BEGUN` decides for `BEGIN`, for the other commands and for the emitted words. -/
theorem lifecycleViolationStopsAndNothingElseDoes : Obligations.LifecycleViolationStopsAndNothingElseDoes := by
  refine fun s i => ⟨fun hi hne => exec_of_not_begun hi hne, exec_begin_of_begun, ?_⟩
  cases hi : isCommand i with
  | false => exact .inl (exists_exec_next_of_word hi s)
  | true =>
    by_cases hfirst : i = .begin
    · subst hfirst
      cases hbegun : s.begun with
      | false => exact .inl ⟨_, exec_begin_of_not_begun hbegun⟩
      | true => exact .inr ⟨exec_begin_of_begun hbegun, rfl, by simp⟩
    · cases hbegun : s.begun with
      | false => exact .inr ⟨exec_of_not_begun hi hfirst hbegun, rfl, by simp [hfirst]⟩
      | true => exact .inl (exists_exec_next_of_begun hi hfirst hbegun)

/-! ### Rejected operands (R202) -/

theorem freqOperand_of_isNaN {a : B32} (h : isNaN a = true) : freqOperand a = none := if_pos h

theorem phaseOperand_of_not_isFinite {b : B32} (h : isFinite b = false) : phaseOperand b = none := if_neg (by simp [h])

section Rejected

variable {s : State} (hbegun : s.begun = true) (ch : Chan) {a : B32}

include hbegun

theorem exec_setfreq_of_isNaN (ha : isNaN a = true) : exec (.setfreq ch a) s = .next (finish .badArgument s) := by
  rw [exec, execSetfreq, freqOperand_of_isNaN ha, whenBegun_of_begun hbegun]

theorem exec_incfreq_of_isNaN (ha : isNaN a = true) : exec (.incfreq ch a) s = .next (finish .badArgument s) := by
  rw [exec, execIncfreq, freqOperand_of_isNaN ha, whenBegun_of_begun hbegun]

theorem exec_setphase_of_not_isFinite (ha : isFinite a = false) :
    exec (.setphase ch a) s = .next (finish .badArgument s) := by
  rw [exec, execSetphase, phaseOperand_of_not_isFinite ha, whenBegun_of_begun hbegun]

theorem exec_incphase_of_not_isFinite (ha : isFinite a = false) :
    exec (.incphase ch a) s = .next (finish .badArgument s) := by
  rw [exec, execIncphase, phaseOperand_of_not_isFinite ha, whenBegun_of_begun hbegun]

/-- One bad operand of `APPLY` is enough, whatever the other one is (R180, R205). -/
theorem exec_apply_of_badOperand (shape : Shape) (pch : Chan) {b : B32} (h : isNaN a = true ∨ isFinite b = false) :
    exec (.apply shape ch a pch b) s = .next (finish .badArgument s) := by
  rw [exec, execApply, whenBegun_of_begun hbegun]
  obtain ha | hb := h
  · rw [freqOperand_of_isNaN ha]
  · rw [phaseOperand_of_not_isFinite hb]
    cases freqOperand a <;> rfl

end Rejected

/-! ### Accepted infinities (R202) -/

/-- The frequency operand of `APPLY` enters it by its clamped value alone (R180). -/
theorem exec_apply_congr {s : State} {a a' : B32} (shape : Shape) (ch pch : Chan) (b : B32) (ha : isNaN a = false)
    (ha' : isNaN a' = false) (h : clampF s.cfg (denote a) = clampF s.cfg (denote a')) :
    exec (.apply shape ch a pch b) s = exec (.apply shape ch a' pch b) s := by
  rw [exec, exec, execApply, execApply, freqOperand_of_not_isNaN ha, freqOperand_of_not_isNaN ha']
  cases phaseOperand b with
  | none => rfl
  | some y => exact congrArg _ (setFreqBody_congr ch h)

/-- R114: an infinite delta passes. -/
theorem addFreq_denote_of_isInf (cur : B32) {d : B32} (h : isInf d = true) : addFreq cur (denote d) = denote d := by
  rw [addFreq_denote, if_pos h]

/-- Plus infinity clamps to the ceiling, as the pattern of the ceiling does (R100). -/
theorem clampF_posInf_eq {cfg : Config} (hcfg : ConfigLegal cfg) :
    clampF cfg .posInf = clampF cfg (denote cfg.maxFreqHz) := by
  obtain ⟨hmaxfin, -⟩ := id hcfg
  rw [denote_of_isFinite hmaxfin, clampF_fin_of_ge _ (maxFreq_eq hcfg).le, clampF]

/-- Minus infinity clamps to 0 (R100). -/
theorem clampF_negInf_eq (cfg : Config) : clampF cfg .negInf = clampF cfg (denote 0x00000000) :=
  (clampF_denote_zero cfg).symm

theorem denote_plusInfinity : denote 0x7F800000 = .posInf := by decide

theorem denote_minusInfinity : denote 0xFF800000 = .negInf := by decide

/-- Settles O38: a bad operand ends the command at once, and an infinity enters by its clamped value, the bound's. -/
theorem badArgumentTable : Obligations.BadArgumentTable := by
  refine fun s ch pch shape a b hbegun => ⟨fun ha => ?_, fun hb => ?_, fun hcfg => ?_⟩
  · exact ⟨exec_setfreq_of_isNaN hbegun ch ha, exec_incfreq_of_isNaN hbegun ch ha,
      exec_apply_of_badOperand hbegun ch shape pch (.inl ha)⟩
  · exact ⟨exec_setphase_of_not_isFinite hbegun ch hb, exec_incphase_of_not_isFinite hbegun ch hb,
      exec_apply_of_badOperand hbegun ch shape pch (.inr hb)⟩
  · obtain ⟨hmaxfin, -⟩ := id hcfg
    have hmax := isNaN_of_isFinite hmaxfin
    have hpos : clampF s.cfg (denote 0x7F800000) = clampF s.cfg (denote s.cfg.maxFreqHz) := by
      rw [denote_plusInfinity, clampF_posInf_eq hcfg]
    have hneg : clampF s.cfg (denote 0xFF800000) = clampF s.cfg (denote 0x00000000) := by
      rw [denote_minusInfinity, clampF_negInf_eq]
    exact ⟨exec_setfreq_congr ch (by decide) hmax hpos, exec_setfreq_congr ch (by decide) (by decide) hneg,
      exec_incfreq_eq_exec_setfreq ch (by decide) hmax (by rw [addFreq_denote_of_isInf _ (by decide), hpos]),
      exec_incfreq_eq_exec_setfreq ch (by decide) (by decide) (by rw [addFreq_denote_of_isInf _ (by decide), hneg]),
      exec_apply_congr shape ch pch b (by decide) hmax hpos,
      exec_apply_congr shape ch pch b (by decide) (by decide) hneg⟩

end Sys2Proof.Machine

/-! Values that rounding keeps: the phase remainder (R106) and the phase readback (R109). -/

namespace Sys2Proof.Machine

/-! ### Significands of 24 bits (R11) -/

/-- A magnitude with a 24-bit significand `c'` is a whole number of the places it is rounded to, so it is kept. -/
theorem RoundsTo.exact {n k c k' c' : Nat} (h : RoundsTo n 1 k c) (hn : n = c' * 2 ^ k') (hc' : c' < 2 ^ 24) :
    c * 2 ^ k = n := by
  have hk : k ≤ k' := by
    obtain rfl | ⟨-, hle⟩ := h.normalized
    · exact Nat.zero_le _
    · have hlt : 2 ^ 23 * 2 ^ k < 2 ^ 23 * 2 ^ (k' + 1) :=
        calc 2 ^ 23 * 2 ^ k ≤ c' * 2 ^ k' := by simpa [hn] using hle
          _ < 2 ^ 24 * 2 ^ k' := by gcongr
          _ = 2 ^ 23 * 2 ^ (k' + 1) := by ring
      exact Nat.le_of_lt_succ ((Nat.pow_lt_pow_iff_right Nat.one_lt_two).1 (Nat.lt_of_mul_lt_mul_left hlt))
  have hplaces : c' * 2 ^ (k' - k) * 2 ^ k = n := by
    rw [hn, mul_assoc, ← pow_add, Nat.sub_add_cancel hk]
  have hnear := (h.nearest_multiple (c' * 2 ^ (k' - k))).1
  rw [hplaces, Nat.cast_one, mul_one, mul_one, sub_self, abs_zero, abs_nonpos_iff, sub_eq_zero] at hnear
  exact_mod_cast hnear

/-- R11: a real with a 24-bit significand below the overflow bound is a binary32 value, and rounding keeps it. -/
theorem rnd32_of_significand {c k : Nat} (hc : c < 2 ^ 24) (hk : k ≤ 253) :
    isFinite (rnd32 ((c * 2 ^ k : Nat) : Int)) = true ∧
      val (rnd32 ((c * 2 ^ k : Nat) : Int)) = ((c * 2 ^ k : Nat) : Int) := by
  have hbound : ((c * 2 ^ k : Nat) : Int).natAbs < (2 ^ 128 - 2 ^ 103) * unit * 1 :=
    calc ((c * 2 ^ k : Nat) : Int).natAbs = c * 2 ^ k := Int.natAbs_natCast _
      _ ≤ (2 ^ 24 - 1) * 2 ^ 253 := Nat.mul_le_mul (by omega) (Nat.pow_le_pow_right (by decide) hk)
      _ < _ := by norm_num [unit]
  obtain ⟨hfin, k', c', hround, hmag, -⟩ := exists_rnd32Quot_significand Nat.one_pos hbound
  have hsign : signBit (rnd32 ((c * 2 ^ k : Nat) : Int)) = false := by simp [rnd32]
  refine ⟨hfin, ?_⟩
  rw [val_of_signBit_false hsign, rnd32, hmag, hround.exact (Int.natAbs_natCast _) hc, Int.natAbs_natCast]

/-! ### The phase readback (R109) -/

/-- Settles O22: 45 times a 12-bit word is a significand of 24 bits. -/
theorem phaseReadbackIsExact : Obligations.PhaseReadbackIsExact := by
  intro p
  have hpw := (pw p).isLt
  obtain ⟨hfin, hval⟩ := rnd32_of_significand (c := (pw p).toNat * 45) (k := 140) (by omega) (by decide)
  have hturns : val (actualP p) * 4096 = (((pw p).toNat * fullTurn : Nat) : Int) := by
    rw [actualP, hval, fullTurn, unit]
    push_cast
    ring
  have hturn := fullTurn_pos
  have hle : (pw p).toNat * fullTurn ≤ 4095 * fullTurn := Nat.mul_le_mul_right _ (by omega)
  refine ⟨hfin, hturns, ?_, ?_⟩
  · rw [hturns]
    exact_mod_cast hle
  · rw [actualP, hval]
    exact Int.natCast_nonneg _

/-! ### The phase remainder (R106) -/

/-- The remainder is `x - 360 * floor(x / 360)`. -/
theorem remainder360_eq_floor (x : Int) : remainder360 x = x - (fullTurn : Int) * ⌊(x : ℚ) / (fullTurn : ℚ)⌋ := by
  rw [remainder360, Int.emod_def, Rat.floor_intCast_div_natCast]

theorem remainder360_nonneg (x : Int) : 0 ≤ remainder360 x := Int.emod_nonneg _ (by decide)

theorem remainder360_lt (x : Int) : remainder360 x < fullTurn := Int.emod_lt_of_pos _ (by decide)

/-- The remainder of a 24-bit significand has one itself: 360 degrees are 45 units of `2^152`, so the remainder is a multiple
of `2^k` no larger than the value where `k` is at most 152, and one of `2^152` below 45 where it is more. -/
theorem exists_significand_mod_fullTurn {c k : Nat} (hc : c < 2 ^ 24) :
    ∃ c' k', c' < 2 ^ 24 ∧ k' ≤ 253 ∧ c * 2 ^ k % fullTurn = c' * 2 ^ k' := by
  have hturn : fullTurn = 45 * 2 ^ 152 := by decide
  rcases Nat.le_total k 152 with hk | hk
  · refine ⟨c % (45 * 2 ^ (152 - k)), k, (Nat.mod_le _ _).trans_lt hc, by omega, ?_⟩
    rw [← Nat.mul_mod_mul_right, mul_assoc, ← pow_add, Nat.sub_add_cancel hk, hturn]
  · refine ⟨c * 2 ^ (k - 152) % 45, 152, (Nat.mod_lt _ (by decide)).trans (by decide), by decide, ?_⟩
    rw [← Nat.mul_mod_mul_right, mul_assoc, ← pow_add, Nat.sub_add_cancel hk, hturn]

/-- R106, GK4: from 0 on the remainder of a binary32 value is one, so it is normalized without rounding. -/
theorem val_normP_of_nonneg {a : B32} (h0 : 0 ≤ val a) : val (normP (val a)) = val a % (fullTurn : Int) := by
  obtain ⟨k, c, -, hc, -, hmag⟩ := exists_significand a
  obtain ⟨c', k', hc', hk', hmod⟩ := exists_significand_mod_fullTurn (k := k) hc
  have hval : val a = magnitude a := by
    rw [val] at h0 ⊢
    split_ifs at h0 ⊢ <;> omega
  have hrem : remainder360 (val a) = ((c' * 2 ^ k' : Nat) : Int) := by
    rw [remainder360, hval, hmag, ← hmod, Int.natCast_emod]
  have hkeep : val (rnd32 (remainder360 (val a))) = remainder360 (val a) := by
    rw [hrem, (rnd32_of_significand hc' hk').2]
  have hlt := remainder360_lt (val a)
  rw [normP, if_neg (by omega), hkeep, remainder360]

/-- Settles O21: the remainder is the floor's, the stored phase is legal, and a binary32 remainder is not rounded. -/
theorem normalizedPhaseIsTheRemainder : Obligations.NormalizedPhaseIsTheRemainder := by
  refine ⟨fun x q hq => ?_, phaseOk_normP, fun _ _ h0 => val_normP_of_nonneg h0, by decide, by decide, by decide⟩
  rw [← remainder360_eq_floor] at hq
  subst hq
  exact ⟨remainder360_nonneg x, remainder360_lt x, rfl⟩

end Sys2Proof.Machine

/-! Commands cut short by a word that fails (R204): the frame ends, the response is `TransportFault`, and what was to do after
the word is dropped. -/

namespace Sys2Proof.Machine

/-! ### Answers whose first `Fault` comes after `k` words (R52) -/

/-- `Ok` to one word, `Ok` to `k` more, and then `Fault`. -/
theorem answersFaultAt_succ {k : Nat} {s : State} (h : answersFaultAt (k + 1) s) :
    ∃ answers, s.answers = .ok :: answers ∧ answers.take (k + 1) = List.replicate k .ok ++ [.fault] := by
  obtain ⟨-, h⟩ := h
  cases hans : s.answers with
  | nil => simp [hans] at h
  | cons a answers =>
    rw [hans, List.take_succ_cons, List.replicate_succ, List.cons_append, List.cons.injEq] at h
    exact ⟨answers, by rw [h.1], h.2⟩

theorem answersFaultAt_zero {s : State} (h : answersFaultAt 0 s) : ∃ answers, s.answers = .fault :: answers := by
  obtain ⟨-, h⟩ := h
  cases hans : s.answers with
  | nil => simp [hans] at h
  | cons a answers =>
    simp only [hans, List.take_succ_cons, List.take_zero, List.replicate_zero, List.nil_append, List.cons.injEq] at h
    exact ⟨answers, by rw [h.1]⟩

/-- The words before the failing one are answered `Ok`. -/
theorem answersOk_of_faultAt {m k : Nat} {s : State} (h : answersFaultAt k s) (hm : m ≤ k) : answersOk m s := by
  obtain ⟨-, h⟩ := h
  have hm' : m ≤ (List.replicate k Answer.ok).length := by simpa
  have htake : s.answers.take m = (s.answers.take (k + 1)).take m := by
    rw [List.take_take, Nat.min_eq_left (Nat.le_succ_of_le hm)]
  rw [answersOk, htake, h, List.take_append_of_le_length hm', List.take_replicate, Nat.min_eq_left hm]

/-- After `m` of the words before it, the failing word is `m` words nearer. -/
theorem answersFaultAt_drop {m k : Nat} {s t : State} (h : answersFaultAt (m + k) s)
    (hcfg : t.cfg.transportCanFault = s.cfg.transportCanFault) (ht : t.answers = s.answers.drop m) :
    answersFaultAt k t := by
  obtain ⟨hcan, h⟩ := h
  refine ⟨hcfg.trans hcan, ?_⟩
  have hm : m ≤ (List.replicate (m + k) Answer.ok).length := by simp
  rw [ht, List.take_drop, ← Nat.add_assoc, h, List.drop_append_of_le_length hm, List.drop_replicate,
    Nat.add_sub_cancel_left]

/-! ### A frame cut short (R204) -/

/-- A word answered `Fault` by the answers given as an input: of the operation `Sel(false)` and the fault are left. -/
theorem advanced_word_of_fault {s : State} {w : ChannelWord} {rest : List Action} {answers : List Answer}
    (htodo : s.todo = .word w :: rest) (hans : s.answers = .fault :: answers) (hcan : s.cfg.transportCanFault = true) :
    advanced s = { s with
      todo := [.deselect, .finish (.transportFault s.seq)]
      answers := answers
      trace := s.trace ++ [.word w] } := by
  have hfault : nextAnswer { s with todo := rest } = .fault := nextAnswer_given hans hcan
  rw [advanced_cons htodo, performed, memWrite_of_fault hfault]
  simp [hans]

/-- Where the word fails, `Sel(false)` and the response end the run, and the block stays idle. -/
theorem runSteps_word_of_fault {s : State} {w : ChannelWord} {rest : List Action} (hin : s.inputs = [])
    (htodo : s.todo = .word w :: rest) (hfault : answersFaultAt 0 s) (n : Nat) :
    runSteps (n + 3) s = .next (failed { s with seq := 0, todo := [] } 1 [.word w, .sel false]) := by
  obtain ⟨answers, hans⟩ := answersFaultAt_zero hfault
  have hword := advanced_word_of_fault htodo hans hfault.1
  have hlast : advanced (advanced (advanced s)) = failed { s with seq := 0, todo := [] } 1 [.word w, .sel false] := by
    rw [hword]
    simp [advanced, performed, emit, finish, failed, Ending.response, hans]
  calc runSteps (n + 3) s
    _ = runSteps (n + 2) (advanced s) := runSteps_succ _ (step_quiet_eq hin)
    _ = runSteps (n + 1) (advanced (advanced s)) := runSteps_succ _ (step_quiet_eq (by simpa using hin))
    _ = runSteps n (advanced (advanced (advanced s))) := runSteps_succ _ (step_quiet_eq (by simpa using hin))
    _ = _ := by
      rw [hlast]
      exact runSteps_idle (by exact hin) (by rfl) n

/-- The words of an open frame go through up to the failing one, which is the last word sent. -/
theorem runSteps_insideFrame_of_fault {s : State} {ws : List ChannelWord} {rest : List Action} {k : Nat}
    (hin : s.inputs = []) (htodo : s.todo = ws.map .word ++ rest) (hk : k < ws.length) (hfault : answersFaultAt k s)
    (n : Nat) :
    runSteps (n + 3 + k) s = .next
      (failed { s with seq := 0, todo := [] } (k + 1) ((ws.take (k + 1)).map .word ++ [.sel false])) := by
  induction k generalizing s ws with
  | zero =>
    cases ws with
    | nil => cases hk
    | cons w ws => exact runSteps_word_of_fault hin htodo hfault n
  | succ k ih =>
    cases ws with
    | nil => cases hk
    | cons w ws =>
      obtain ⟨answers, hans, hrest⟩ := answersFaultAt_succ hfault
      have hword := advanced_word_of_ok htodo hans
      rw [← Nat.add_assoc, runSteps_succ _ (step_quiet_eq hin),
        ih (s := advanced s) (ws := ws) (by simpa using hin) (by rw [hword]; rfl) (Nat.lt_of_succ_lt_succ hk)
          (by rw [hword]; exact ⟨hfault.1, hrest⟩), hword]
      simp [failed, hans]

/-- A frame cut short at its word number `k + 1` leaves its events up to that word behind, and nothing after it is done. -/
theorem runSteps_openFrame_of_fault {s : State} (ws : List ChannelWord) {k : Nat} (hin : s.inputs = [])
    (hk : k < ws.length) (hfault : answersFaultAt k s) (n : Nat) :
    runSteps (n + 3 + k) (openFrame ws s) = .next
      (failed { s with seq := 0, todo := [] } (k + 1) (frameEvents (ws.take (k + 1)))) := by
  rw [runSteps_insideFrame_of_fault (s := openFrame ws s) hin (openFrame_todo ws s) hk hfault]
  simp [openFrame, emit, failed, frameEvents]

/-- From an idle block the state after the run is the one whose registers were written before the frame. -/
theorem runSteps_oneFrame_of_fault {s : State} (ws : List ChannelWord) {k : Nat} (hseq : s.seq = 0) (htodo : s.todo = [])
    (hin : s.inputs = []) (hk : k < ws.length) (hfault : answersFaultAt k s) (n : Nat) (todo : List Action) :
    runSteps (n + 3 + k) (openFrame ws { s with todo := todo }) = .next
      (failed s (k + 1) (frameEvents (ws.take (k + 1)))) := by
  rw [runSteps_openFrame_of_fault (s := { s with todo := todo }) ws hin hk hfault, ← hseq, ← htodo]

/-! ### The frequency update -/

/-- R140 from the line `h <- clampF(x)` on, cut short: what `SETFREQ`, `INCFREQ` and `APPLY` have in common. -/
theorem runSteps_setFreqBody_of_fault {s : State} {k : Nat} (hseq : s.seq = 0) (htodo : s.todo = []) (hin : s.inputs = [])
    (hk : k < 3) (hfault : answersFaultAt k s) (ch : Chan) (x : XReal) (n : Nat) (todo : List Action) :
    let h := clampF s.cfg x
    let s' := { s with freq := s.freq.set ch (rnd32 (h : Int)) }
    runSteps (n + 3 + k) (setFreqBody ch x { s with todo := todo }) = .next
      (failed s' (k + 1) (frameEvents ([ctrl s', freqLow s.refclk ch h, freqHigh s.refclk ch h].take (k + 1)))) :=
  runSteps_oneFrame_of_fault (s := { s with freq := s.freq.set ch (rnd32 (clampF s.cfg x : Int)) })
    [_, _, _] hseq htodo hin hk hfault n todo

/-- Settles O39: both commands run the body of `SETFREQ`, which the failing word cuts short. -/
theorem frequencyUpdateCutShort : Obligations.FrequencyUpdateCutShort := by
  intro s ch a k hk ⟨hbegun, hseq, htodo, hin⟩ hfault ha
  have hsteps : 5 = 2 - k + 3 + k := by omega
  rw [hsteps]
  exact ⟨⟨_, exec_setfreq hbegun ch ha, runSteps_setFreqBody_of_fault hseq htodo hin hk hfault ch _ _ _⟩,
    ⟨_, exec_incfreq hbegun ch ha, runSteps_setFreqBody_of_fault hseq htodo hin hk hfault ch _ _ _⟩⟩

/-! ### The commands of one word -/

section OneWord

variable {s : State} (hseq : s.seq = 0) (htodo : s.todo = []) (hin : s.inputs = []) (hfault : answersFaultAt 0 s)

include hseq htodo hin hfault

/-- The settling delay after the frame is dropped with the rest of the operation (R131, R132). -/
theorem runSteps_resetBody_of_fault :
    runSteps 4 (resetBody (thenDone s)) = .next (failed s 1 (frameEvents [s.cfg.resetWord])) :=
  runSteps_oneFrame_of_fault [s.cfg.resetWord] hseq htodo hin Nat.one_pos hfault 1 _

theorem runSteps_setPhaseBody_of_fault (ch : Chan) (x : Int) :
    let p := normP x
    runSteps 3 (setPhaseBody ch x (thenDone s)) = .next
      (failed { s with phase := s.phase.set ch p } 1 (frameEvents [pword ch p])) :=
  runSteps_oneFrame_of_fault (s := { s with phase := s.phase.set ch (normP x) }) [_] hseq htodo hin Nat.one_pos hfault 0 _

/-- A command that writes no more than the registers of R110, then `writeCtrl()` and `done`. The written state is idle, and
its word fails, as in the state before it. -/
theorem writeCtrl_cutShort_of_exec {i : Instr} {wave : Pair Shape} {afc apc : Chan} {oe dacdis clkdis : Bool}
    (hexec : exec i s = .next (writeCtrl (thenDone { s with
      wave := wave, afc := afc, apc := apc, oe := oe, dacdis := dacdis, clkdis := clkdis }))) :
    let s' := { s with wave := wave, afc := afc, apc := apc, oe := oe, dacdis := dacdis, clkdis := clkdis }
    ∃ t, exec i s = .next t ∧ runSteps 3 t = .next (failed s' 1 (frameEvents [ctrl s'])) :=
  ⟨_, hexec, runSteps_oneFrame_of_fault (s := { s with
    wave := wave, afc := afc, apc := apc, oe := oe, dacdis := dacdis, clkdis := clkdis }) [_] hseq htodo hin
    Nat.one_pos hfault 0 _⟩

end OneWord

/-- Settles O40: each command writes its registers before its one frame, which the failing word cuts short. -/
theorem oneWordCommandsCutShort : Obligations.OneWordCommandsCutShort := by
  intro s hseq htodo hin hfault
  refine ⟨fun hbegun => ⟨_, exec_begin_of_not_begun hbegun,
    runSteps_resetBody_of_fault (s := { s with begun := true }) hseq htodo hin hfault⟩, fun hbegun => ?_⟩
  refine ⟨?reset, fun ch a ha => ?setphase, fun ch a ha => ?incphase, fun ch shape => ?setwave, fun fch pch => ?setsrc,
    fun en => ?enout, fun en => ?sleep, fun en => ?dacoff, fun en => ?clkoff⟩
  case reset => exact ⟨_, whenBegun_of_begun hbegun _, runSteps_resetBody_of_fault hseq htodo hin hfault⟩
  case setphase => exact ⟨_, exec_setphase hbegun ch ha, runSteps_setPhaseBody_of_fault hseq htodo hin hfault ch _⟩
  case incphase => exact ⟨_, exec_incphase hbegun ch ha, runSteps_setPhaseBody_of_fault hseq htodo hin hfault ch _⟩
  all_goals exact writeCtrl_cutShort_of_exec hseq htodo hin hfault (whenBegun_of_begun hbegun _)

/-! ### `APPLY` (R180, R204) -/

section SubOperations

variable {s : State} (hin : s.inputs = []) {fch pch : Chan}

include hin

/-- A sub-operation of `APPLY` whose one word fails has written its registers, and is the last one. -/
theorem runSteps_subOperation_of_fault {s' : State} {a : Action} {rest : List Action} {w : ChannelWord}
    (htodo : s.todo = a :: rest) (hopens : performed a { s with todo := rest } = openFrame [w] s')
    (hfault : answersFaultAt 0 s') (n : Nat) :
    runSteps (n + 4) s = .next (failed { s' with seq := 0, todo := [] } 1 (frameEvents [w])) := by
  have hin' : s'.inputs = [] := by rw [← openFrame_inputs [w] s', ← hopens, performed_inputs, hin]
  rw [runSteps_succ (n + 3) (step_quiet_eq hin), advanced_cons htodo, hopens]
  exact runSteps_openFrame_of_fault [w] hin' Nat.one_pos hfault n

/-- The selections are left, and their word fails. -/
theorem runSteps_fromSetSrc_of_fault {rest : List Action} (htodo : s.todo = .setSrc fch pch :: rest)
    (hfault : answersFaultAt 0 s) :
    let s4 := { s with afc := fch, apc := pch, seq := 0, todo := [] }
    runSteps 4 s = .next (failed s4 1 (frameEvents [ctrl s4])) :=
  runSteps_subOperation_of_fault hin htodo rfl hfault 0

/-- The shape and the selections are left, and the word of one of them fails. -/
theorem runSteps_fromSetWave_of_fault {shape : Shape} {rest : List Action} {k : Nat} (hk : k < 2)
    (htodo : s.todo = .setWave fch shape :: .setSrc fch pch :: rest) (hfault : answersFaultAt k s) :
    let s3 := { s with wave := s.wave.set fch shape, seq := 0, todo := [] }
    let s4 := { s3 with afc := fch, apc := pch }
    runSteps 7 s = .next
      (if k = 0 then failed s3 1 (frameEvents [ctrl s3])
       else failed s4 2 (frameEvents [ctrl s3] ++ frameEvents [ctrl s4])) := by
  obtain rfl | rfl : k = 0 ∨ k = 1 := by omega
  · exact runSteps_subOperation_of_fault hin htodo rfl hfault 3
  · have hok : answersOk 1 s := answersOk_of_faultAt hfault le_rfl
    calc runSteps 7 s
      _ = runSteps 4 _ := runSteps_subOperation hin htodo rfl hok 4
      _ = .next _ := runSteps_fromSetSrc_of_fault (by exact hin) rfl (answersFaultAt_drop (m := 1) hfault rfl rfl)
      _ = _ := by simp [failed, ctrl]

/-- The phase, the shape and the selections are left, and the word of one of them fails. -/
theorem runSteps_fromSetPhase_of_fault {y : Int} {shape : Shape} {rest : List Action} {k : Nat} (hk : k < 3)
    (htodo : s.todo = .setPhase pch y :: .setWave fch shape :: .setSrc fch pch :: rest) (hfault : answersFaultAt k s) :
    let p := normP y
    let s2 := { s with phase := s.phase.set pch p, seq := 0, todo := [] }
    let s3 := { s2 with wave := s.wave.set fch shape }
    let s4 := { s3 with afc := fch, apc := pch }
    runSteps 10 s = .next
      (if k = 0 then failed s2 1 (frameEvents [pword pch p])
       else if k = 1 then failed s3 2 (frameEvents [pword pch p] ++ frameEvents [ctrl s3])
       else failed s4 3 (frameEvents [pword pch p] ++ frameEvents [ctrl s3] ++ frameEvents [ctrl s4])) := by
  obtain _ | k := k
  · exact runSteps_subOperation_of_fault hin htodo rfl hfault 6
  · have hok : answersOk 1 s := answersOk_of_faultAt hfault (Nat.le_add_left 1 k)
    have hfault' : answersFaultAt (1 + k) s := Nat.add_comm k 1 ▸ hfault
    calc runSteps 10 s
      _ = runSteps 7 _ := runSteps_subOperation hin htodo rfl hok 7
      _ = .next _ := runSteps_fromSetWave_of_fault (by exact hin) (Nat.lt_of_succ_lt_succ hk) rfl
        (answersFaultAt_drop (m := 1) hfault' rfl rfl)
      _ = _ := by
        obtain rfl | rfl : k = 0 ∨ k = 1 := by omega
        · simp [failed, ctrl]
        · simp [failed, ctrl]

end SubOperations

/-- Settles O41: the failing word stands in the frequency frame, or in the frame of one of the sub-operations after it. -/
theorem applyCutShort : Obligations.ApplyCutShort := by
  intro s shape fch a pch b k hk ⟨hbegun, hseq, htodo, hin⟩ hfault ha hb h p s1 s2 s3 s4 f1
  refine ⟨_, exec_apply hbegun shape fch pch ha hb, ?_⟩
  by_cases hfirst : k < 3
  · have hsteps : 14 = 11 - k + 3 + k := by omega
    rw [if_pos hfirst, hsteps]
    exact runSteps_setFreqBody_of_fault hseq htodo hin hfirst hfault fch _ _ _
  · obtain ⟨j, rfl⟩ := Nat.exists_eq_add_of_le (not_lt.1 hfirst)
    calc runSteps 14 _
      _ = runSteps 10 _ := runSteps_openFrame f1 hin (answersOk_of_faultAt hfault (Nat.le_add_right 3 j)) 10
        (s := { s1 with todo := .setPhase pch (val b) :: .setWave fch shape :: .setSrc fch pch :: (thenDone s).todo })
      _ = .next _ := runSteps_fromSetPhase_of_fault (by exact hin) (by omega) rfl
        (answersFaultAt_drop (m := 3) hfault rfl rfl)
      _ = _ := by
        obtain rfl | rfl | rfl : j = 0 ∨ j = 1 ∨ j = 2 := by omega
        · simp [failed, ctrl, hseq, htodo, s2, s1, f1, p, h]
        · simp [failed, ctrl, hseq, htodo, s3, s2, s1, f1, p, h]
        · simp [failed, ctrl, hseq, htodo, s4, s3, s2, s1, f1, p, h]

end Sys2Proof.Machine
